-- ==== Sys2Proof/Word.lean ====
section
/-! DEFINITION. The words of the block: the byte, the 32-bit value, the frame, and the request record that is its instruction word. -/

namespace Sys2Proof

/-- An unsigned 8-bit byte, `u8` (R10, R14, R15). -/
abbrev Byte := BitVec 8

/-- A value in `i32`, held as its 32-bit two's-complement pattern (R10, R15): the pattern is `u32 v` and the
number it stands for is `s32`. DEDUCED, safe: every `i32` has exactly one pattern (R114). -/
abbrev Value := BitVec 32

/-- `FRAME_LEN` (R9): "every Command Frame and every Reply Frame is exactly 9 bytes". -/
abbrev frameLen : Nat := 9

/-- The nine bytes of a frame in offset order (R9, R14, R60, R62). -/
abbrev FrameBytes := Vector Byte 9

/-- A request: the record of R70, every field at its fixed width, so that a field value outside its width cannot
be written down (R70, R115, D19: the caller's unbounded integers are `RawRequest`). -/
structure Request where
  /-- selects the operation (R71) -/
  opsel : Byte
  /-- frame offset 0 of every encode request -/
  addr  : Byte := 0
  /-- frame offset 1 of BUILD -/
  cmd   : Byte := 0
  /-- frame offset 2 of BUILD, the parameter number of the parameter requests -/
  type  : Byte := 0
  /-- frame offset 3 of every encode request (the bank of the global-parameter requests) -/
  motor : Byte := 0
  /-- the value of BUILD, ROR, ROL, MVP.ABS, MVP.REL, SAP, SGP and PACK32 -/
  value : Value := 0
  /-- the byte string of DECODE, CKSUM and UNPACK32, with its length -/
  bytes : List Byte := []
  deriving DecidableEq, Repr

end Sys2Proof
end

