-- ==== Sys2Proof/Config.lean ====
section
/-! DEFINITION. What is fixed for the machine and what the spec leaves open as a named parameter (00_scope.md section 3). -/

namespace Sys2Proof

/-- The twelve wire command names of R11. -/
inductive WireName where
  | ror | rol | mst | mvp | sap | gap | stap | rsap | sgp | ggp | stgp | rsgp
  deriving DecidableEq, Repr

/-- The parameter names the catalog of R12 lists; `other` stands for the ones the source elides with "etc.". -/
inductive ParamName where
  | targetPosition | actualPosition | targetVelocity | actualVelocity | maxRampVelocity | maxCurrent
  | targetCurrent | currentP | currentI | currentD | velocityP | velocityI | velocityD | encoderAngle | motorPoles
  | other (name : String)
  deriving DecidableEq, Repr

/-- The two move modes of MVP (R13). -/
inductive MoveMode where
  | absolute | relative
  deriving DecidableEq, Repr

/-- `WIRE_OP` (R11, R69, D4): an OPEN parameter of the model, so a constant without a body; no proof can see a
number of it. Log entry 6. -/
opaque Config.wireOp : WireName → Byte

/-- `PARAM_CODE` (R12, D21): an OPEN parameter of the model, which no rule of the block reads (R8, R128).
Log entry 7. -/
opaque Config.paramCode : ParamName → Byte

/-- The move-mode type codes, `ABSOLUTE = 0` and `RELATIVE = 1` (R13). -/
def Config.moveMode : MoveMode → Byte
  | .absolute => 0
  | .relative => 1

end Sys2Proof
end

