-- ==== Sys2Proof/Syntax.lean ====
section
/-! DEFINITION. The instructions: one constructor per row of spec/opcode_table.json, its operands the request fields that row uses (R71, R78, R81). -/

namespace Sys2Proof

/-- One operation of the block with its operands. The encode requests carry the address `addr`, the motor/bank
index `motor` and what their own rule adds; a byte string keeps whatever length the request has (R46). -/
inductive Instr where
  /-- R120, OPSEL 0x00 -/
  | build (addr cmd type motor : Byte) (value : Value)
  /-- R130, OPSEL 0x01 -/
  | ror (addr motor : Byte) (value : Value)
  /-- R131, OPSEL 0x02 -/
  | rol (addr motor : Byte) (value : Value)
  /-- R132, OPSEL 0x03 -/
  | mst (addr motor : Byte)
  /-- R133, OPSEL 0x04 -/
  | mvpAbs (addr motor : Byte) (value : Value)
  /-- R134, OPSEL 0x05 -/
  | mvpRel (addr motor : Byte) (value : Value)
  /-- R135, OPSEL 0x06 -/
  | sap (addr param motor : Byte) (value : Value)
  /-- R136, OPSEL 0x07 -/
  | gap (addr param motor : Byte)
  /-- R137, OPSEL 0x08 -/
  | stap (addr param motor : Byte)
  /-- R138, OPSEL 0x09 -/
  | rsap (addr param motor : Byte)
  /-- R139, OPSEL 0x0A -/
  | sgp (addr param bank : Byte) (value : Value)
  /-- R140, OPSEL 0x0B -/
  | ggp (addr param bank : Byte)
  /-- R141, OPSEL 0x0C -/
  | stgp (addr param bank : Byte)
  /-- R142, OPSEL 0x0D -/
  | rsgp (addr param bank : Byte)
  /-- R160, OPSEL 0x10 -/
  | decode (bytes : List Byte)
  /-- R100, OPSEL 0x11 -/
  | cksum (bytes : List Byte)
  /-- R112, OPSEL 0x12 -/
  | pack32 (value : Value)
  /-- R113, OPSEL 0x13 -/
  | unpack32 (bytes : List Byte)
  /-- R127, OPSEL 0x14 -/
  | rdframe
  deriving DecidableEq, Repr

end Sys2Proof
end

