-- ==== Sys2Proof/WellFormed.lean ====
section
/-! DEFINITION. What is a request at all (R70, R115, D19), and which byte counts keep the caller's contract (R46, R203). -/

namespace Sys2Proof

/-- What a caller that holds unbounded integers would like to put into the fields of R70. -/
structure RawRequest where
  opsel : Int
  addr  : Int := 0
  cmd   : Int := 0
  type  : Int := 0
  motor : Int := 0
  value : Int := 0
  bytes : List Int := []
  deriving DecidableEq, Repr

/-- Membership in `u8`, the set 0..255 (R15). -/
def fitsU8 (n : Int) : Bool := decide (0 ≤ n) && decide (n ≤ 255)

/-- Membership in `i32`, the set -2^31..2^31-1 (R15). -/
def fitsI32 (n : Int) : Bool := decide (-2147483648 ≤ n) && decide (n ≤ 2147483647)

/-- Every field fits its width (R70); a record that fails one of these checks is not a request at all. -/
def RawRequest.WellFormed (q : RawRequest) : Bool :=
  fitsU8 q.opsel && fitsU8 q.addr && fitsU8 q.cmd && fitsU8 q.type && fitsU8 q.motor && fitsI32 q.value
    && q.bytes.all fitsU8

/-- The byte count the operation requires of `BYTES`, for the operations that have one (R46: DECODE 9, CKSUM 8,
UNPACK32 4). -/
def Instr.bytesNeeded : Instr → Option Nat
  | .decode _ => some 9
  | .cksum _ => some 8
  | .unpack32 _ => some 4
  | .build .. | .ror .. | .rol .. | .mst .. | .mvpAbs .. | .mvpRel .. | .sap .. | .gap .. | .stap .. | .rsap ..
  | .sgp .. | .ggp .. | .stgp .. | .rsgp .. | .pack32 .. | .rdframe => none

/-- The byte string an instruction carries; empty where its operation uses none. -/
def Instr.byteString : Instr → List Byte
  | .decode bs | .cksum bs | .unpack32 bs => bs
  | .build .. | .ror .. | .rol .. | .mst .. | .mvpAbs .. | .mvpRel .. | .sap .. | .gap .. | .stap .. | .rsap ..
  | .sgp .. | .ggp .. | .stgp .. | .rsgp .. | .pack32 .. | .rdframe => []

/-- The caller's contract on `BYTES` (R166, R203). An instruction that breaks it is still a request: it decodes,
and its meaning raises `CONTRACT_VIOLATION`. -/
def Instr.contractMet (i : Instr) : Bool :=
  match i.bytesNeeded with
  | some n => i.byteString.length == n
  | none => true

end Sys2Proof
end

