-- ==== Sys2Proof/Decode.lean ====
section
/-! DEFINITION. From a caller's record to a request, from a request to an instruction, and back (R70 to R74, R78, R81). -/

namespace Sys2Proof

/-! ### Forming a request -/

/-- Forming a request from unbounded integers: refused, never truncated, where a value does not fit its field
(R70, R115, D19). -/
def RawRequest.form (q : RawRequest) : Option Request :=
  if q.WellFormed then
    some { opsel := BitVec.ofInt 8 q.opsel, addr := BitVec.ofInt 8 q.addr, cmd := BitVec.ofInt 8 q.cmd,
           type := BitVec.ofInt 8 q.type, motor := BitVec.ofInt 8 q.motor, value := BitVec.ofInt 32 q.value,
           bytes := q.bytes.map (BitVec.ofInt 8) }
  else none

/-! ### Decoding: OPSEL is the whole selector -/

/-- Why a request has no operation. -/
inductive DecodeError where
  /-- `OPSEL` is one of the reserved values of R71 (R73) -/
  | reservedOpsel (opsel : Byte)
  deriving DecidableEq, Repr

/-- The OPSEL map of R71, row by row: the selector and the operands its operation draws from the request (R70, R81). -/
def opselMap : List (Byte × (Request → Instr)) := [
  (0x00, fun r => .build r.addr r.cmd r.type r.motor r.value),
  (0x01, fun r => .ror r.addr r.motor r.value),
  (0x02, fun r => .rol r.addr r.motor r.value),
  (0x03, fun r => .mst r.addr r.motor),
  (0x04, fun r => .mvpAbs r.addr r.motor r.value),
  (0x05, fun r => .mvpRel r.addr r.motor r.value),
  (0x06, fun r => .sap r.addr r.type r.motor r.value),
  (0x07, fun r => .gap r.addr r.type r.motor),
  (0x08, fun r => .stap r.addr r.type r.motor),
  (0x09, fun r => .rsap r.addr r.type r.motor),
  (0x0A, fun r => .sgp r.addr r.type r.motor r.value),
  (0x0B, fun r => .ggp r.addr r.type r.motor),
  (0x0C, fun r => .stgp r.addr r.type r.motor),
  (0x0D, fun r => .rsgp r.addr r.type r.motor),
  (0x10, fun r => .decode r.bytes),
  (0x11, fun r => .cksum r.bytes),
  (0x12, fun r => .pack32 r.value),
  (0x13, fun r => .unpack32 r.bytes),
  (0x14, fun _ => .rdframe)]

/-- The operation a request asks for, told from `OPSEL` alone (R71, R81); total, and a reserved selector is
rejected by name (R73). -/
def decode (r : Request) : Except DecodeError Instr :=
  match opselMap.lookup r.opsel with
  | some operands => .ok (operands r)
  | none => .error (.reservedOpsel r.opsel)

/-- The reserved selectors of R71: 0x0E, 0x0F and 0x15 to 0xFF. -/
def isReservedOpsel (opsel : Byte) : Bool :=
  opsel == 0x0E || opsel == 0x0F || decide (0x15 ≤ opsel.toNat)

/-! ### Encoding -/

/-- The request of an instruction: `OPSEL` from the table, each operand in its field, unnamed fields 0 (R78). -/
def encode : Instr → Request
  | .build a c t m v => { opsel := 0x00, addr := a, cmd := c, type := t, motor := m, value := v }
  | .ror a m v => { opsel := 0x01, addr := a, motor := m, value := v }
  | .rol a m v => { opsel := 0x02, addr := a, motor := m, value := v }
  | .mst a m => { opsel := 0x03, addr := a, motor := m }
  | .mvpAbs a m v => { opsel := 0x04, addr := a, motor := m, value := v }
  | .mvpRel a m v => { opsel := 0x05, addr := a, motor := m, value := v }
  | .sap a p m v => { opsel := 0x06, addr := a, type := p, motor := m, value := v }
  | .gap a p m => { opsel := 0x07, addr := a, type := p, motor := m }
  | .stap a p m => { opsel := 0x08, addr := a, type := p, motor := m }
  | .rsap a p m => { opsel := 0x09, addr := a, type := p, motor := m }
  | .sgp a p m v => { opsel := 0x0A, addr := a, type := p, motor := m, value := v }
  | .ggp a p m => { opsel := 0x0B, addr := a, type := p, motor := m }
  | .stgp a p m => { opsel := 0x0C, addr := a, type := p, motor := m }
  | .rsgp a p m => { opsel := 0x0D, addr := a, type := p, motor := m }
  | .decode bs => { opsel := 0x10, bytes := bs }
  | .cksum bs => { opsel := 0x11, bytes := bs }
  | .pack32 v => { opsel := 0x12, value := v }
  | .unpack32 bs => { opsel := 0x13, bytes := bs }
  | .rdframe => { opsel := 0x14 }

/-! ### The opcode table's words -/

/-- The request that stands for a word of spec/opcode_table.json, whose rows are the 8 bits of `OPSEL`: the operand
fields are 0, and `BYTES` holds as many zero bytes as the operation's line of R78 writes. A word that is not one
8-bit `OPSEL` is no row of the table. DESIGN CHOICE (log entry 8), safe. -/
def tableRequest (nbits w : Nat) : Option Request :=
  if nbits = 8 ∧ w < 256 then
    let opsel := BitVec.ofNat 8 w
    let count := match decode { opsel := opsel } with
      | .ok i => i.bytesNeeded.getD 0
      | .error _ => 0
    some { opsel := opsel, bytes := List.replicate count 0 }
  else none

/-- The instruction the decoder reads from a word of the opcode table. -/
def decodeTableWord (nbits w : Nat) : Option Instr :=
  match tableRequest nbits w with
  | some r => (decode r).toOption
  | none => none

end Sys2Proof
end

