-- ==== Sys2Proof/Machine/State.lean ====
section
/-! DEFINITION. The state of one codec instance, the request and response interface around it, why a step can stop, and reset. -/

namespace Sys2Proof.Machine

/-- The values of the fault record `FAULT` (R25, R203). -/
inductive FaultRecord where
  /-- `NONE`, code 0 -/
  | noFault
  /-- `CONTRACT_VIOLATION`, code 1 -/
  | contractViolation
  /-- `ILLEGAL_REQUEST`, code 2 -/
  | illegalRequest
  /-- `FRAME_UNWRITTEN`, code 3 -/
  | frameUnwritten
  deriving DecidableEq, Repr

/-- The `RESULT` field of a response (R72). -/
inductive ResultCode where
  /-- `OK`, code 0 -/
  | ok
  /-- `CHECKSUM_MISMATCH`, code 1 -/
  | checksumMismatch
  deriving DecidableEq, Repr

/-- The record a successful decode returns (R62, R63); `value` is the `i32` of that pattern. -/
structure ReplyFrame where
  receiverAddress : Byte
  moduleAddress   : Byte
  status          : Byte
  echoedCommand   : Byte
  value           : Value
  deriving DecidableEq, Repr

/-- A response (R72); a field its operation does not have is absent. -/
structure Response where
  result   : ResultCode
  frameOut : Option FrameBytes := none
  byteOut  : Option Byte := none
  bytesOut : Option (Vector Byte 4) := none
  valueOut : Option Value := none
  reply    : Option ReplyFrame := none
  deriving DecidableEq, Repr

/-- What the host can do to the block between steps: offer a request (R70, R219) or drive the explicit reset input
that R240 lets a model have (log entry 4). -/
inductive Input where
  | request (r : Request)
  | reset
  deriving DecidableEq, Repr

/-- Storage as (offset, byte) pairs, offsets strictly rising. What an unlisted offset reads as: no value
(R33: `FRAME` "holds no value"). -/
abbrev Memory := List Host.Cell

/-- The canonical form of storage. No byte equals what an unlisted offset reads as, since that is no value. -/
abbrev Memory.wf (m : Memory) : Prop := (m.map Prod.fst).Pairwise (· < ·)

/-- One codec instance (R20, R24, R25, R33) and its two interfaces. -/
structure State where
  /-- `FRAME[0..8]`, the one storage object (R20, R40) -/
  frame      : Memory
  /-- `FRAME_VALID` (R24) -/
  frameValid : Bool
  /-- `FAULT` (R25) -/
  fault      : FaultRecord
  /-- the caller's sequence of offers, the next one first (R28, R48); the model's own field, log entry 1 -/
  inputs     : List Input
  /-- the response the last step delivered, if it delivered one (R72, R204); the model's own field, log entry 2 -/
  response   : Option Response
  deriving DecidableEq, Repr

/-- Why a step stops the run. The spec's own faults are no such stop: they are recorded in `FAULT` by a next state
(R204). -/
inductive Fault where
  /-- A read of a byte of `FRAME` that nothing has written, though `FRAME_VALID` is 1. Raised by RDFRAME, only in
  states no run reaches (`State.Inv`). Safe: it stops where the spec gives no value. -/
  | frameByteAbsent (offset : Nat)
  /-- An access to an offset outside 0 to 8, which does not exist (R40, R41). Raised by the storage operations; no
  request names an offset (R45), so no meaning reaches it. Safe. -/
  | noSuchOffset (offset : Nat)
  deriving DecidableEq, Repr

/-- Why an instruction has no meaning. -/
inductive Refusal where
  /-- An instruction of the table without a meaning yet. Raised by `exec` alone; no arm of it does. Safe. -/
  | notModelled (mnemonic : String)
  deriving DecidableEq, Repr

/-- The machine right after reset (R33, R240): `FRAME` holds no value, `FRAME_VALID = 0`, `FAULT = NONE`. The
interfaces are empty: DESIGN CHOICE, log entries 1 and 2. -/
def State.reset : State :=
  { frame := [], frameValid := false, fault := .noFault, inputs := [], response := none }

end Sys2Proof.Machine
end

