-- ==== Sys2Proof/Machine/Operands.lean ====
section
/-! DEFINITION. Operand forms: signed values, the big-endian packer and unpacker, byte-string operands, and the two frame formats. -/

namespace Sys2Proof.Machine

/-! ### Signed values (R15) -/

/-- `u32(v) = v mod 2^32`, the two's-complement pattern of a value. -/
def u32 (v : Int) : Value := BitVec.ofNat 32 (v % 4294967296).toNat

/-- `s32(u)`: `u - 2^32` if `u[31] = 1`, else `u`. -/
def s32 (u : Value) : Int := if u.getLsbD 31 then (u.toNat : Int) - 4294967296 else u.toNat

/-! ### The value packer (41_value_packer.md) -/

/-- `pack32` (R110, R42): the four bytes of the pattern, most significant first. -/
def pack32 (v : Value) : Vector Byte 4 :=
  #v[v.extractLsb' 24 8, v.extractLsb' 16 8, v.extractLsb' 8 8, v.extractLsb' 0 8]

/-- `unpack32` (R111, R42): the pattern `b[0] b[1] b[2] b[3]`, `b[0]` in bits 31:24; its `s32` is the value. -/
def unpack32 (b : Vector Byte 4) : Value :=
  b[0] ++ b[1] ++ b[2] ++ b[3]

/-! ### Byte-string operands (R46) -/

/-- A byte string as exactly `n` bytes; `none` for any other length, shorter or longer (R166). -/
def exactly (n : Nat) (bs : List Byte) : Option (Vector Byte n) :=
  if h : bs.length = n then some ⟨bs.toArray, by simpa using h⟩ else none

/-! ### Frames (30_encoding.md sections 1 to 3) -/

/-- Bytes 0 to 7 of a frame, what its checksum covers (R64, R102). -/
def frameBody (f : FrameBytes) : Vector Byte 8 := #v[f[0], f[1], f[2], f[3], f[4], f[5], f[6], f[7]]

/-- Bytes 4 to 7 of a frame, its value field (R60, R62). -/
def frameValueBytes (f : FrameBytes) : Vector Byte 4 := #v[f[4], f[5], f[6], f[7]]

/-- The five members of a Reply Frame (R62, R63, R163, R164). -/
def replyOf (f : FrameBytes) : ReplyFrame :=
  { receiverAddress := f[0], moduleAddress := f[1], status := f[2], echoedCommand := f[3],
    value := unpack32 (frameValueBytes f) }

/-- A frame as one 72-bit word, `f[0]` most significant (R61). -/
def frameWord (f : FrameBytes) : BitVec 72 :=
  f[0] ++ f[1] ++ f[2] ++ f[3] ++ f[4] ++ f[5] ++ f[6] ++ f[7] ++ f[8]

/-- The order of a frame's bytes on the serial line, offset 0 first (R43, D22; log entry 21). -/
def lineBytes (f : FrameBytes) : List Byte := f.toList

end Sys2Proof.Machine
end

