-- ==== Sys2Proof/Machine/Flags.lean ====
section
/-! DEFINITION. The block has no flags (R29). Here: the checksum every RESULT and every frame rests on, and the result and fault codes. -/

namespace Sys2Proof.Machine

/-- `checksum` (R101): the accumulator `ACC` starts at 0 and takes byte 0 to byte 7 in order, each addition wrapping
modulo 256 (R104); `ACC` is not kept (R26). The one routine of the encoder and the decoder (R103). -/
def checksum (b : Vector Byte 8) : Byte := b.toList.foldl (fun acc x => acc + x) 0

/-- The frame of `encode(a, c, t, m, v)` (R120): the four bytes, `pack32 v`, and the checksum over those eight. -/
def buildFrame (a c t m : Byte) (v : Value) : FrameBytes :=
  let p := pack32 v
  let body : Vector Byte 8 := #v[a, c, t, m, p[0], p[1], p[2], p[3]]
  #v[a, c, t, m, p[0], p[1], p[2], p[3], checksum body]

/-- The decoder's one comparison (R161): the recomputed checksum against byte 8. -/
def checksumOk (f : FrameBytes) : Bool := checksum (frameBody f) == f[8]

/-- The codes of `RESULT` (R72). -/
def ResultCode.code : ResultCode → Nat
  | .ok => 0
  | .checksumMismatch => 1

/-- The codes of `FAULT` (R203). -/
def FaultRecord.code : FaultRecord → Nat
  | .noFault => 0
  | .contractViolation => 1
  | .illegalRequest => 2
  | .frameUnwritten => 3

end Sys2Proof.Machine
end

