-- ==== Sys2Proof/Machine/Ops.lean ====
section
/-! DEFINITION. The named operations over storage, the response port, the fault record and the input queue. -/

namespace Sys2Proof.Machine

/-- The outcome of one step of this machine. -/
abbrev StepResult := Host.Outcome State Fault Refusal

/-! ### Storage -/

/-- One byte of storage; `none` where nothing has been written. -/
def Memory.read (m : Memory) (a : Nat) : Option Byte := m.lookup a

/-- Write one byte, keeping the offsets strictly rising. -/
def Memory.write (a : Nat) (b : Byte) : Memory → Memory
  | [] => [(a, b)]
  | c :: rest =>
    if a < c.1 then (a, b) :: c :: rest
    else if a = c.1 then (a, b) :: rest
    else c :: Memory.write a b rest

/-- One byte of `FRAME` by offset (R16, R40). -/
def readByte (m : Memory) (a : Nat) : Except Fault Byte :=
  if a < frameLen then
    match m.read a with
    | some b => .ok b
    | none => .error (.frameByteAbsent a)
  else .error (.noSuchOffset a)

/-- `MemRead(FRAME, start, n)` (R16): `n` consecutive bytes in offset order. -/
def memRead (m : Memory) (start : Nat) : (n : Nat) → Except Fault (Vector Byte n)
  | 0 => .ok #v[]
  | n + 1 =>
    match memRead m start n with
    | .error e => .error e
    | .ok bs =>
      match readByte m (start + n) with
      | .error e => .error e
      | .ok b => .ok (bs.push b)

/-- `MemWrite(FRAME, start, _, bytes)` (R16): consecutive bytes in offset order. -/
def memWrite (m : Memory) (start : Nat) : List Byte → Except Fault Memory
  | [] => .ok m
  | b :: bs =>
    if start < frameLen then memWrite (m.write start b) (start + 1) bs else .error (.noSuchOffset start)

/-! ### Ending a request -/

/-- `respond(r)` (R16): deliver the response and end the request. -/
def State.respond (s : State) (r : Response) : State := { s with response := some r }

/-- `raise Fault(kind)` (R204), the one exception entry of the block: `FAULT <- kind` and no response; `FRAME` and
`FRAME_VALID` keep their values. There is no return from it but reset (R208). -/
def State.raise (s : State) (kind : FaultRecord) : State := { s with fault := kind, response := none }

/-- A request offered while `FAULT` is not `NONE` is not accepted, whatever it is (R204, R205): no response, and
the state of the block unchanged. -/
def State.turnAway (s : State) : State := { s with response := none }

/-- Acceptance (R204, R205): the request is performed only while `FAULT = NONE`. -/
def State.accept (s : State) (perform : State → StepResult) : StepResult :=
  if s.fault = .noFault then perform s else .next s.turnAway

/-! ### The operations several requests share -/

/-- `encode(a, c, t, m, v)` of R120: build the frame, write all nine bytes of `FRAME`, set `FRAME_VALID`, respond
`OK` with a copy of the frame. -/
def State.encodeFrame (s : State) (a c t m : Byte) (v : Value) : StepResult :=
  let f := buildFrame a c t m v
  match memWrite s.frame 0 f.toList with
  | .ok mem => .next (State.respond { s with frame := mem, frameValid := true } { result := .ok, frameOut := some f })
  | .error e => .fault e

/-- A request whose operand is exactly `n` bytes: any other count raises `CONTRACT_VIOLATION` before anything is
computed (R166, R203, R205). -/
def State.withBytes (s : State) (n : Nat) (bytes : List Byte) (perform : Vector Byte n → Response) : StepResult :=
  match exactly n bytes with
  | some bs => .next (s.respond (perform bs))
  | none => .next (s.raise .contractViolation)

/-! ### What arrives from the host -/

/-- A request with a reserved `OPSEL` performs no operation and raises `ILLEGAL_REQUEST` (R73). -/
def illegalRequest (s : State) : StepResult :=
  s.accept fun s => .next (s.raise .illegalRequest)

/-- The explicit reset input (R240): every piece of the block's state takes its reset value, whatever `FAULT` held;
the caller's remaining offers are the caller's (R28). -/
def State.doReset (s : State) : State := { State.reset with inputs := s.inputs }

/-- Nothing is offered: the block is idle and holds its state (R214); no response is delivered. -/
def State.idle (s : State) : State := { s with response := none }

/-- Take the next offer of the caller's sequence (R28, R48). -/
def State.takeInput (s : State) : Option (Input × State) :=
  match s.inputs with
  | [] => none
  | i :: rest => some (i, { s with inputs := rest })

/-- Put a request in front of the caller's sequence, where the next step takes it. -/
def State.offer (s : State) (r : Request) : State := { s with inputs := .request r :: s.inputs }

/-- Offer the request of an opcode-table word, if it is one (log entry 8). -/
def State.offerTableWord (s : State) (nbits w : Nat) : State :=
  match tableRequest nbits w with
  | some r => s.offer r
  | none => s

end Sys2Proof.Machine
end

