-- ==== Sys2Proof/Machine/Checksum.lean ====
section
/-! DEFINITION. The checksum accumulator as a request of its own: CKSUM (40_checksum.md). -/

namespace Sys2Proof.Machine

/-- CKSUM (R100): the checksum of eight bytes. -/
def execCksum (bytes : List Byte) (s : State) : StepResult :=
  s.accept fun s => s.withBytes 8 bytes fun b => { result := .ok, byteOut := some (checksum b) }

end Sys2Proof.Machine
end

