-- ==== Sys2Proof/Machine/Decoder.lean ====
section
/-! DEFINITION. The decoder: DECODE (43_decoder.md). -/

namespace Sys2Proof.Machine

/-- The result of `decodeFrame` on nine bytes (R160 to R164): the members on a match, and on a mismatch no field at
all (R162). No member is checked against anything (R163). -/
def decodeReply (buf : FrameBytes) : Response :=
  if checksumOk buf then { result := .ok, reply := some (replyOf buf) } else { result := .checksumMismatch }

/-- DECODE (R160): nine bytes of the request, never `FRAME` (R165). -/
def execDecode (bytes : List Byte) (s : State) : StepResult :=
  s.accept fun s => s.withBytes 9 bytes decodeReply

end Sys2Proof.Machine
end

