-- ==== Sys2Proof/Machine/Encoder.lean ====
section
/-! DEFINITION. The encode face: BUILD, the thirteen convenience requests and RDFRAME (42_encoder.md). -/

namespace Sys2Proof.Machine

/-- BUILD (R120, R121): every operand written through unchanged. -/
def execBuild (addr cmd type motor : Byte) (value : Value) (s : State) : StepResult :=
  s.accept fun s => s.encodeFrame addr cmd type motor value

/-! ### Motion requests -/

/-- ROR, rotate right (R130): type 0, the velocity as value. -/
def execRor (addr motor : Byte) (value : Value) (s : State) : StepResult :=
  s.accept fun s => s.encodeFrame addr (Config.wireOp .ror) 0 motor value

/-- ROL, rotate left (R131). -/
def execRol (addr motor : Byte) (value : Value) (s : State) : StepResult :=
  s.accept fun s => s.encodeFrame addr (Config.wireOp .rol) 0 motor value

/-- MST, motor stop (R132): type 0, value 0. -/
def execMst (addr motor : Byte) (s : State) : StepResult :=
  s.accept fun s => s.encodeFrame addr (Config.wireOp .mst) 0 motor 0

/-- MVP.ABS, move to an absolute position (R133). -/
def execMvpAbs (addr motor : Byte) (value : Value) (s : State) : StepResult :=
  s.accept fun s => s.encodeFrame addr (Config.wireOp .mvp) (Config.moveMode .absolute) motor value

/-- MVP.REL, move by a relative offset (R134). -/
def execMvpRel (addr motor : Byte) (value : Value) (s : State) : StepResult :=
  s.accept fun s => s.encodeFrame addr (Config.wireOp .mvp) (Config.moveMode .relative) motor value

/-! ### Axis-parameter requests: any parameter number, the catalog is not consulted (R128) -/

/-- SAP, set axis parameter (R135). -/
def execSap (addr param motor : Byte) (value : Value) (s : State) : StepResult :=
  s.accept fun s => s.encodeFrame addr (Config.wireOp .sap) param motor value

/-- GAP, get axis parameter (R136): value 0. -/
def execGap (addr param motor : Byte) (s : State) : StepResult :=
  s.accept fun s => s.encodeFrame addr (Config.wireOp .gap) param motor 0

/-- STAP, store axis parameter (R137): value 0, the spec's decision D6 (log entry 11). -/
def execStap (addr param motor : Byte) (s : State) : StepResult :=
  s.accept fun s => s.encodeFrame addr (Config.wireOp .stap) param motor 0

/-- RSAP, restore axis parameter (R138): value 0, D6 (log entry 11). -/
def execRsap (addr param motor : Byte) (s : State) : StepResult :=
  s.accept fun s => s.encodeFrame addr (Config.wireOp .rsap) param motor 0

/-! ### Global-parameter requests: parameter at offset 2, bank at offset 3, the spec's decision D7 (log entry 12) -/

/-- SGP, set global parameter (R139). -/
def execSgp (addr param bank : Byte) (value : Value) (s : State) : StepResult :=
  s.accept fun s => s.encodeFrame addr (Config.wireOp .sgp) param bank value

/-- GGP, get global parameter (R140): value 0 (D6). -/
def execGgp (addr param bank : Byte) (s : State) : StepResult :=
  s.accept fun s => s.encodeFrame addr (Config.wireOp .ggp) param bank 0

/-- STGP, store global parameter (R141): value 0 (D6). -/
def execStgp (addr param bank : Byte) (s : State) : StepResult :=
  s.accept fun s => s.encodeFrame addr (Config.wireOp .stgp) param bank 0

/-- RSGP, restore global parameter (R142): value 0 (D6). -/
def execRsgp (addr param bank : Byte) (s : State) : StepResult :=
  s.accept fun s => s.encodeFrame addr (Config.wireOp .rsgp) param bank 0

/-! ### Reading the frame back -/

/-- RDFRAME (R127): a copy of the nine bytes of `FRAME`, or `FRAME_UNWRITTEN` while `FRAME_VALID = 0`. -/
def execRdframe (s : State) : StepResult :=
  s.accept fun s =>
    if s.frameValid then
      match memRead s.frame 0 frameLen with
      | .ok f => .next (s.respond { result := .ok, frameOut := some f })
      | .error e => .fault e
    else .next (s.raise .frameUnwritten)

end Sys2Proof.Machine
end

