-- ==== Sys2Proof/Machine/Packer.lean ====
section
/-! DEFINITION. The value packer and unpacker as requests of their own: PACK32 and UNPACK32 (41_value_packer.md). -/

namespace Sys2Proof.Machine

/-- PACK32 (R112): the big-endian bytes of a value. -/
def execPack32 (value : Value) (s : State) : StepResult :=
  s.accept fun s => .next (s.respond { result := .ok, bytesOut := some (pack32 value) })

/-- UNPACK32 (R113): the signed value of four big-endian bytes. -/
def execUnpack32 (bytes : List Byte) (s : State) : StepResult :=
  s.accept fun s => s.withBytes 4 bytes fun b => { result := .ok, valueOut := some (unpack32 b) }

end Sys2Proof.Machine
end

