-- ==== Sys2Proof/Machine/Dispatch.lean ====
section
/-! DEFINITION. The dispatch: one arm per instruction, each one call of its meaning. -/

namespace Sys2Proof.Machine
open Sys2Proof

def exec (i : Instr) (s : State) : Host.Outcome State Fault Refusal :=
  match i with
  | .build addr cmd type motor value => Sys2Proof.Machine.execBuild addr cmd type motor value s
  | .ror addr motor value => Sys2Proof.Machine.execRor addr motor value s
  | .rol addr motor value => Sys2Proof.Machine.execRol addr motor value s
  | .mst addr motor => Sys2Proof.Machine.execMst addr motor s
  | .mvpAbs addr motor value => Sys2Proof.Machine.execMvpAbs addr motor value s
  | .mvpRel addr motor value => Sys2Proof.Machine.execMvpRel addr motor value s
  | .sap addr param motor value => Sys2Proof.Machine.execSap addr param motor value s
  | .gap addr param motor => Sys2Proof.Machine.execGap addr param motor s
  | .stap addr param motor => Sys2Proof.Machine.execStap addr param motor s
  | .rsap addr param motor => Sys2Proof.Machine.execRsap addr param motor s
  | .sgp addr param bank value => Sys2Proof.Machine.execSgp addr param bank value s
  | .ggp addr param bank => Sys2Proof.Machine.execGgp addr param bank s
  | .stgp addr param bank => Sys2Proof.Machine.execStgp addr param bank s
  | .rsgp addr param bank => Sys2Proof.Machine.execRsgp addr param bank s
  | .decode bytes => Sys2Proof.Machine.execDecode bytes s
  | .cksum bytes => Sys2Proof.Machine.execCksum bytes s
  | .pack32 value => Sys2Proof.Machine.execPack32 value s
  | .unpack32 bytes => Sys2Proof.Machine.execUnpack32 bytes s
  | .rdframe => Sys2Proof.Machine.execRdframe s

end Sys2Proof.Machine
end

