-- ==== Sys2Proof/Machine/Step.lean ====
section
/-! DEFINITION. One step: the next offer of the caller's sequence, taken, decoded and performed. -/

namespace Sys2Proof.Machine

/-- One step. The offer at the head of the caller's sequence leaves it; a reset is taken (R240), a request is decoded
and performed as one atomic step (R16, R48), a reserved selector is the fault of R73. With no offer the block is
idle (R214). Log entries 1, 4 and 20. -/
def step (s : State) : Host.Outcome State Fault Refusal :=
  match s.takeInput with
  | none => .next s.idle
  | some (.reset, s') => .next s'.doReset
  | some (.request r, s') =>
    match decode r with
    | .ok i => exec i s'
    | .error _ => illegalRequest s'

/-- `s` with the request of an opcode-table word in front of the caller's sequence, so that the next step takes it. -/
def State.withFetchWord (s : State) (nbits w : Nat) : State := s.offerTableWord nbits w

end Sys2Proof.Machine
end

