-- ==== Sys2Proof/Machine/Assembler.lean ====
section
/-! DEFINITION. The textual form of requests (R78): the caller's line of text, read into a request, omitted bracketed operands 0. -/

namespace Sys2Proof.Machine

/-- The field an operand of a line goes to. -/
inductive LineField where
  | addr | cmd | type | motor | value | byte
  deriving DecidableEq, Repr

/-- One row of the table of R78: the operands it writes in order, and whether `[, m]` follows. -/
structure LineForm where
  name     : String
  opsel    : Int
  operands : List LineField
  optionalMotor : Bool
  deriving DecidableEq, Repr

/-- The table of R78. -/
def lineForms : List LineForm := [
  ⟨"BUILD", 0x00, [.addr, .cmd, .type, .motor, .value], false⟩,
  ⟨"ROR", 0x01, [.addr, .value], true⟩,
  ⟨"ROL", 0x02, [.addr, .value], true⟩,
  ⟨"MST", 0x03, [.addr], true⟩,
  ⟨"MVP.ABS", 0x04, [.addr, .value], true⟩,
  ⟨"MVP.REL", 0x05, [.addr, .value], true⟩,
  ⟨"SAP", 0x06, [.addr, .type, .value], true⟩,
  ⟨"GAP", 0x07, [.addr, .type], true⟩,
  ⟨"STAP", 0x08, [.addr, .type], true⟩,
  ⟨"RSAP", 0x09, [.addr, .type], true⟩,
  ⟨"SGP", 0x0A, [.addr, .type, .value], true⟩,
  ⟨"GGP", 0x0B, [.addr, .type], true⟩,
  ⟨"STGP", 0x0C, [.addr, .type], true⟩,
  ⟨"RSGP", 0x0D, [.addr, .type], true⟩,
  ⟨"DECODE", 0x10, [.byte, .byte, .byte, .byte, .byte, .byte, .byte, .byte, .byte], false⟩,
  ⟨"CKSUM", 0x11, [.byte, .byte, .byte, .byte, .byte, .byte, .byte, .byte], false⟩,
  ⟨"PACK32", 0x12, [.value], false⟩,
  ⟨"UNPACK32", 0x13, [.byte, .byte, .byte, .byte], false⟩,
  ⟨"RDFRAME", 0x14, [], false⟩]

/-- Put one operand into its field; the bytes of `BYTES` come in index order. -/
def LineField.set (q : RawRequest) (x : Int) : LineField → RawRequest
  | .addr => { q with addr := x }
  | .cmd => { q with cmd := x }
  | .type => { q with type := x }
  | .motor => { q with motor := x }
  | .value => { q with value := x }
  | .byte => { q with bytes := q.bytes ++ [x] }

/-- Put the operands of a line into the fields given for them, one for one. `none` where the counts differ, which on a
byte line never happens (DESIGN CHOICE, log entry 24: see `LineForm.fields`). -/
def setOperands (q : RawRequest) : List LineField → List Int → Option RawRequest
  | [], [] => some q
  | f :: fs, x :: xs => setOperands (f.set q x) fs xs
  | [], _ :: _ => none
  | _ :: _, [] => none

/-- The fields for `count` operands of a line: those its row of R78 writes, with the bracketed one when it is there.
R78 writes nine, eight and four bytes for DECODE, CKSUM and UNPACK32 and does not say whether a line with another
count is one; P3 step 5 of 95_test_vectors.md gives `DECODE` with eight bytes, which faults. DESIGN CHOICE (log entry
24): a byte line takes any number of bytes, and the request it spells faults as R166, R100 and R113 say. -/
def LineForm.fields (form : LineForm) (count : Nat) : List LineField :=
  if form.operands.contains .byte then List.replicate count .byte
  else if form.optionalMotor && count == form.operands.length + 1 then form.operands ++ [.motor]
  else form.operands

/-- A line's operands under a row of R78, put into their fields; a field that gets no operand is 0. -/
def LineForm.fill (form : LineForm) (xs : List Int) : Option RawRequest :=
  setOperands { opsel := form.opsel } (form.fields xs.length) xs

/-- A line already split into its mnemonic and operands, as a request: `none` where it is no line of R78 or an
operand does not fit its field (R70). -/
def assemble (name : String) (xs : List Int) : Option Request :=
  match lineForms.find? fun form => form.name == name with
  | none => none
  | some form =>
    match form.fill xs with
    | none => none
    | some q => q.form

/-! ### Reading the text: what R78 does not say of it (blanks, a sign, letter case of hexadecimal) is log entry 17 -/

/-- The value of a digit, decimal or hexadecimal. -/
def digitValue (c : Char) : Option Nat :=
  if '0' ≤ c ∧ c ≤ '9' then some (c.toNat - 48)
  else if 'a' ≤ c ∧ c ≤ 'f' then some (c.toNat - 87)
  else if 'A' ≤ c ∧ c ≤ 'F' then some (c.toNat - 55)
  else none

/-- Digits in a base, most significant first, after what has been read so far. -/
def readDigits (base : Nat) (acc : Nat) : List Char → Option Nat
  | [] => some acc
  | c :: cs =>
    match digitValue c with
    | some d => if d < base then readDigits base (acc * base + d) cs else none
    | none => none

/-- A decimal or `0x` hexadecimal number of at least one digit. -/
def readNat : List Char → Option Nat
  | [] => none
  | ['0', 'x'] => none
  | '0' :: 'x' :: cs => readDigits 16 0 cs
  | c :: cs => readDigits 10 0 (c :: cs)

/-- A number with an optional minus sign. -/
def readInt : List Char → Option Int
  | '-' :: cs => (readNat cs).map fun n => -(n : Int)
  | cs => (readNat cs).map fun n => (n : Int)

/-- Drop the blanks at both ends. -/
def trimBlanks (cs : List Char) : List Char :=
  ((cs.dropWhile (· == ' ')).reverse.dropWhile (· == ' ')).reverse

/-- The pieces between commas. -/
def splitCommas : List Char → List (List Char)
  | [] => [[]]
  | ',' :: cs => [] :: splitCommas cs
  | c :: cs =>
    match splitCommas cs with
    | [] => [[c]]
    | p :: ps => (c :: p) :: ps

/-- Read every piece as a number, or none of them. -/
def readAll : List (List Char) → Option (List Int)
  | [] => some []
  | p :: ps =>
    match readInt (trimBlanks p), readAll ps with
    | some x, some xs => some (x :: xs)
    | _, _ => none

/-- A line of text as a request (R78): the mnemonic up to the first blank, then the operands between commas. -/
def parseLine (line : List Char) : Option Request :=
  let text := trimBlanks line
  let name := String.ofList (text.takeWhile (· != ' '))
  let rest := trimBlanks (text.dropWhile (· != ' '))
  if rest.isEmpty then assemble name []
  else
    match readAll (splitCommas rest) with
    | some xs => assemble name xs
    | none => none

end Sys2Proof.Machine
end

