-- ==== Sys2Proof/Safety.lean ====
section
/-! DEFINITION. The terms claims use: when the block accepts, what a state holds, the invariant of the block, and what an encode request performs. -/

namespace Sys2Proof.Machine

/-! ### States -/

/-- The block accepts requests (R204, R219). -/
abbrev State.Ready (s : State) : Prop := s.fault = .noFault

/-- `FRAME` holds the frame `f`. -/
def State.HoldsFrame (s : State) (f : FrameBytes) : Prop := ∀ k (h : k < 9), s.frame.read k = some f[k]

/-- `FRAME`, `FRAME_VALID` and `FAULT` of `t` are those of `s`. -/
structure State.SameBlock (s t : State) : Prop where
  frame      : ∀ a, t.frame.read a = s.frame.read a
  frameValid : t.frameValid = s.frameValid
  fault      : t.fault = s.fault

/-- What holds in every state a run reaches. -/
structure State.Inv (s : State) : Prop where
  /-- storage is in canonical form -/
  memWf : s.frame.wf
  /-- nothing exists past offset 8 (R40) -/
  noMore : ∀ a, 9 ≤ a → s.frame.read a = none
  /-- `FRAME_VALID = 0`: `FRAME` holds no value (R24, R33) -/
  unwritten : s.frameValid = false → s.frame = []
  /-- `FRAME_VALID = 1`: `FRAME` holds a frame whose byte 8 is its checksum (R24, R64, R105) -/
  written : s.frameValid = true → ∃ f, s.HoldsFrame f ∧ checksumOk f = true
  /-- a frame just delivered is the one `FRAME` holds (R123) -/
  frameOut : ∀ r f, s.response = some r → r.frameOut = some f → s.HoldsFrame f
  /-- a failed decode carries no field (R162) -/
  mismatch : ∀ r, s.response = some r → r.result = .checksumMismatch → r = { result := .checksumMismatch }
  /-- while `FAULT` is set nothing is delivered (R204) -/
  silent : s.fault ≠ .noFault → s.response = none
  /-- `FRAME_UNWRITTEN` is recorded only while no encode has completed (R127, R203) -/
  unwrittenFault : s.fault = .frameUnwritten → s.frameValid = false

/-- The response of a decode that succeeded (R160, R163). -/
def okReply (receiver module status echoed : Byte) (value : Value) : Response :=
  let reply : ReplyFrame :=
    { receiverAddress := receiver, moduleAddress := module, status := status, echoedCommand := echoed, value := value }
  { result := .ok, reply := some reply }

/-! ### Instructions and offers -/

/-- What an encode request hands to `encode(a, c, t, m, v)`, as its own rule fixes it (R120, R126, R130 to R142);
`none` for the requests that are no encode request. -/
def encodeOperands : Instr → Option (Byte × Byte × Byte × Byte × Value)
  | .build a c t m v => some (a, c, t, m, v)
  | .ror a m v => some (a, Config.wireOp .ror, 0, m, v)
  | .rol a m v => some (a, Config.wireOp .rol, 0, m, v)
  | .mst a m => some (a, Config.wireOp .mst, 0, m, 0)
  | .mvpAbs a m v => some (a, Config.wireOp .mvp, 0, m, v)
  | .mvpRel a m v => some (a, Config.wireOp .mvp, 1, m, v)
  | .sap a p m v => some (a, Config.wireOp .sap, p, m, v)
  | .gap a p m => some (a, Config.wireOp .gap, p, m, 0)
  | .stap a p m => some (a, Config.wireOp .stap, p, m, 0)
  | .rsap a p m => some (a, Config.wireOp .rsap, p, m, 0)
  | .sgp a p m v => some (a, Config.wireOp .sgp, p, m, v)
  | .ggp a p m => some (a, Config.wireOp .ggp, p, m, 0)
  | .stgp a p m => some (a, Config.wireOp .stgp, p, m, 0)
  | .rsgp a p m => some (a, Config.wireOp .rsgp, p, m, 0)
  | .decode _ | .cksum _ | .pack32 _ | .unpack32 _ | .rdframe => none

/-- BUILD and the thirteen convenience requests (R21). -/
def isEncode (i : Instr) : Bool := (encodeOperands i).isSome

/-- The fields the operation of `r` does not use (R70, last column) set to 0; `BYTES` to the empty string. -/
def clearedRequest (r : Request) : Request :=
  let o := r.opsel.toNat
  { opsel := r.opsel
    addr := if o ≤ 0x0D then r.addr else 0
    cmd := if o = 0 then r.cmd else 0
    type := if o = 0 ∨ (0x06 ≤ o ∧ o ≤ 0x0D) then r.type else 0
    motor := if o ≤ 0x0D then r.motor else 0
    value := if o ∈ [0x00, 0x01, 0x02, 0x04, 0x05, 0x06, 0x0A, 0x12] then r.value else 0
    bytes := if o ∈ [0x10, 0x11, 0x13] then r.bytes else [] }

/-- An offer that is neither a reset nor an encode request. -/
def Input.NoEncode : Input → Prop
  | .request r => ∀ i, decode r = .ok i → isEncode i = false
  | .reset => False

/-- Every request with this `OPSEL` decodes to `op` of its fields, whatever its other fields hold (R71, R74, R81). -/
def Selects (opsel : Byte) (op : Request → Instr) : Prop := ∀ r : Request, r.opsel = opsel → decode r = .ok (op r)

/-- A line of text, split into its mnemonic and operands, is the request of `i` (R78). -/
def Spells (name : String) (xs : List Int) (i : Instr) : Prop := assemble name xs = some (encode i)

/-- A byte as the integer a line of text writes. -/
def byteInt (b : Byte) : Int := b.toNat

/-! ### Frames -/

/-- `f` is the frame of the operands `a, c, t, m, v`, said byte by byte on integers (R60, R42, R101, R120). -/
structure CommandLayout (f : FrameBytes) (a c t m : Byte) (v : Value) : Prop where
  address   : f[0] = a
  opcode    : f[1] = c
  typeBank  : f[2] = t
  motorBank : f[3] = m
  value4    : f[4].toNat = v.toNat / 16777216
  value5    : f[5].toNat = v.toNat / 65536 % 256
  value6    : f[6].toNat = v.toNat / 256 % 256
  value7    : f[7].toNat = v.toNat % 256
  check     : f[8].toNat = (f[0].toNat + f[1].toNat + f[2].toNat + f[3].toNat + f[4].toNat + f[5].toNat
                + f[6].toNat + f[7].toNat) % 256

/-- Byte 8 of a frame is the sum of bytes 0 to 7 modulo 256, said on integers (R60, R64, R101). -/
def SumMatches (f : FrameBytes) : Prop :=
  f[8].toNat = (f[0].toNat + f[1].toNat + f[2].toNat + f[3].toNat + f[4].toNat + f[5].toNat + f[6].toNat
    + f[7].toNat) % 256

/-- The instruction, in every state that accepts requests, completes and does exactly what `encode` of R120 does with
the frame `f`: the nine bytes of `FRAME` and no other byte, `FRAME_VALID`, and the response. -/
def WritesFrame (i : Instr) (f : FrameBytes) : Prop :=
  ∀ s : State, s.Ready → ∃ t, exec i s = .next t ∧ t.HoldsFrame f ∧ (∀ a, 9 ≤ a → t.frame.read a = s.frame.read a)
    ∧ t.frameValid = true ∧ t.fault = s.fault ∧ t.inputs = s.inputs
    ∧ t.response = some { result := .ok, frameOut := some f }

/-- The instruction performs `encode(a, c, t, m, v)` (R120, R126). -/
def PerformsEncode (i : Instr) (a c t m : Byte) (v : Value) : Prop :=
  ∃ f, CommandLayout f a c t m v ∧ WritesFrame i f

/-- The instruction, in state `s`, completes, delivers the response `r` and changes nothing of the block. -/
def Answers (i : Instr) (s : State) (r : Response) : Prop :=
  ∃ t, exec i s = .next t ∧ s.SameBlock t ∧ t.inputs = s.inputs ∧ t.response = some r

/-- The instruction, in state `s`, records the fault `kind`, delivers nothing and changes nothing else (R204). -/
def RaisesFault (i : Instr) (s : State) (kind : FaultRecord) : Prop :=
  ∃ t, exec i s = .next t ∧ (∀ a, t.frame.read a = s.frame.read a) ∧ t.frameValid = s.frameValid
    ∧ t.fault = kind ∧ t.inputs = s.inputs ∧ t.response = none

end Sys2Proof.Machine
end

