-- ==== Sys2Proof/Certificates/Slice0/Obligations.lean ====
section
/-! DEFINITION. The statements for the provers. -/

open Sys2Proof Sys2Proof.Machine

/-! ### Requests and their encoding -/

/-- The spec's decision D8 (10_state.md section 4, rule R33): after reset FRAME holds no value at any offset, FRAME_VALID
is 0 and FAULT is NONE. The empty request sequence and response port are the model's choice (log entries 1 and 2). -/
def Obligations.ResetHoldsNoFrame : Prop :=
  (∀ a, State.reset.frame.read a = none) ∧ State.reset.frameValid = false ∧ State.reset.fault = .noFault
    ∧ State.reset.inputs = [] ∧ State.reset.response = none

/-- The spec's decisions D2 and D3 (30_encoding.md section 4, rules R71 and R73): a request has an operation exactly when
its OPSEL is not 0x0E, 0x0F or 0x15 to 0xFF, and is otherwise rejected with that selector named. -/
def Obligations.ReservedSelectorHasNoOperation : Prop :=
  ∀ r : Request,
    ((r.opsel.toNat = 0x0E ∨ r.opsel.toNat = 0x0F ∨ 0x15 ≤ r.opsel.toNat) → decode r = .error (.reservedOpsel r.opsel))
    ∧ (¬ (r.opsel.toNat = 0x0E ∨ r.opsel.toNat = 0x0F ∨ 0x15 ≤ r.opsel.toNat) → ∃ i, decode r = .ok i)

/-- Decode and encode agree, for every instruction at every operand value, and for every request that has an operation:
encoding what it decodes to gives its own OPSEL and its own used fields, with every unused field 0 (R70, R71, R78). -/
def Obligations.DecodeEncodeAgree : Prop :=
  (∀ i, decode (encode i) = .ok i) ∧ (∀ r i, decode r = .ok i → encode i = clearedRequest r)

/-- The spec's decision D2 (30_encoding.md section 4, rule R74): two requests that agree on OPSEL and on the fields their
operation uses have the same outcome in every state, whatever the other fields hold. -/
def Obligations.UnusedFieldsHaveNoEffect : Prop :=
  ∀ (r r' : Request) (s : State), clearedRequest r = clearedRequest r' →
    decode r = decode r' ∧ step (s.offer r) = step (s.offer r')

/-- A few requests written out from 30_encoding.md sections 4 and 6, one for each request format. -/
def Obligations.SampleRequestsDecode : Prop :=
  decode { opsel := 0x00, addr := 1, cmd := 2, type := 3, motor := 4, value := 5 } = .ok (.build 1 2 3 4 5)
    ∧ decode { opsel := 0x0A, addr := 1, type := 65, motor := 2, value := 3 } = .ok (.sgp 1 65 2 3)
    ∧ decode { opsel := 0x13, bytes := [0xFF, 0xFF, 0xFF, 0x9C] } = .ok (.unpack32 [0xFF, 0xFF, 0xFF, 0x9C])
    ∧ decode { opsel := 0x12, value := 0xFFFFFC18 } = .ok (.pack32 0xFFFFFC18)
    ∧ decode { opsel := 0x14 } = .ok .rdframe

/-- The spec's decision D19 (30_encoding.md section 4, rule R70; 41_value_packer.md section 3, rule R115): a record of
integers with a value outside its field's width is refused, and one that fits becomes a request with exactly those
values, none truncated. -/
def Obligations.OnlyFittingRecordsAreRequests : Prop :=
  ∀ q : RawRequest,
    (q.form = none ↔ ¬ ((0 ≤ q.opsel ∧ q.opsel < 256) ∧ (0 ≤ q.addr ∧ q.addr < 256) ∧ (0 ≤ q.cmd ∧ q.cmd < 256)
      ∧ (0 ≤ q.type ∧ q.type < 256) ∧ (0 ≤ q.motor ∧ q.motor < 256) ∧ (-2 ^ 31 ≤ q.value ∧ q.value < 2 ^ 31)
      ∧ ∀ b ∈ q.bytes, 0 ≤ b ∧ b < 256))
    ∧ ∀ r, q.form = some r → (r.opsel.toNat : Int) = q.opsel ∧ (r.addr.toNat : Int) = q.addr
      ∧ (r.cmd.toNat : Int) = q.cmd ∧ (r.type.toNat : Int) = q.type ∧ (r.motor.toNat : Int) = q.motor
      ∧ s32 r.value = q.value ∧ r.bytes.map byteInt = q.bytes

/-- The model's choice (log entry 24), where 30_encoding.md section 6 (rule R78) writes nine, eight and four bytes and P3
step 5 of 95_test_vectors.md a DECODE line with eight: the DECODE, CKSUM and UNPACK32 lines are exactly those whose
operands are bytes, however many, and each is the request of those bytes in index order. -/
def Obligations.ByteLinesTakeAnyCount : Prop :=
  ∀ (xs : List Int) (r : Request),
    (assemble "DECODE" xs = some r ↔ ∃ bs : List Byte, xs = bs.map byteInt ∧ r = encode (.decode bs))
    ∧ (assemble "CKSUM" xs = some r ↔ ∃ bs : List Byte, xs = bs.map byteInt ∧ r = encode (.cksum bs))
    ∧ (assemble "UNPACK32" xs = some r ↔ ∃ bs : List Byte, xs = bs.map byteInt ∧ r = encode (.unpack32 bs))

/-! ### The functions: checksum, packer, frame word -/

/-- 40_checksum.md section 2 (R101): starting from 0, each byte from byte 0 to byte 7 is added modulo 256. The other two
clauses, the integer sum modulo 256 and the same result in whatever order the eight bytes are accumulated, are the
sentence of R101 that the spec marks as its own inference: "derived: from the associativity and commutativity of
addition modulo 256". -/
def Obligations.ChecksumIsSumModulo256 : Prop :=
  ∀ b : Vector Byte 8,
    (checksum b).toNat = ((((((((0 + b[0].toNat) % 256 + b[1].toNat) % 256 + b[2].toNat) % 256 + b[3].toNat) % 256
        + b[4].toNat) % 256 + b[5].toNat) % 256 + b[6].toNat) % 256 + b[7].toNat) % 256
    ∧ (checksum b).toNat = (b[0].toNat + b[1].toNat + b[2].toNat + b[3].toNat + b[4].toNat + b[5].toNat + b[6].toNat
        + b[7].toNat) % 256
    ∧ ∀ b' : Vector Byte 8, b'.toList.Perm b.toList → checksum b' = checksum b

/-- R110: four bytes, most significant first, of the two's-complement pattern `v mod 2^32` of any `i32` `v`. -/
def Obligations.PackIsBigEndian : Prop :=
  ∀ v : Int, -2147483648 ≤ v → v ≤ 2147483647 →
    ((u32 v).toNat : Int) = v % 4294967296
    ∧ ((pack32 (u32 v))[0].toNat : Int) = v % 4294967296 / 16777216
    ∧ ((pack32 (u32 v))[1].toNat : Int) = v % 4294967296 / 65536 % 256
    ∧ ((pack32 (u32 v))[2].toNat : Int) = v % 4294967296 / 256 % 256
    ∧ ((pack32 (u32 v))[3].toNat : Int) = v % 4294967296 % 256

/-- R111: the signed value of four bytes, `b[0]` in bits 31:24 and its bit 7 the sign of the whole value. -/
def Obligations.UnpackReadsSignedBigEndian : Prop :=
  ∀ b : Vector Byte 4,
    (b[0].toNat < 128 → s32 (unpack32 b) =
      b[0].toNat * 16777216 + b[1].toNat * 65536 + b[2].toNat * 256 + b[3].toNat)
    ∧ (128 ≤ b[0].toNat → s32 (unpack32 b) =
      b[0].toNat * 16777216 + b[1].toNat * 65536 + b[2].toNat * 256 + b[3].toNat - 4294967296)

/-- The spec's inference in R114 (41_value_packer.md section 3): packer and unpacker are inverses, as functions and as
requests: what one answers, the other takes back. -/
def Obligations.PackUnpackInverse : Prop :=
  (∀ v : Value, unpack32 (pack32 v) = v) ∧ (∀ b : Vector Byte 4, pack32 (unpack32 b) = b)
    ∧ (∀ v : Int, -2147483648 ≤ v → v ≤ 2147483647 → s32 (unpack32 (pack32 (u32 v))) = v)
    ∧ ∀ (s : State) (v : Value), s.Ready →
      ∃ (t u : State) (b : Vector Byte 4), exec (.pack32 v) s = .next t
        ∧ t.response = some { result := .ok, bytesOut := some b }
        ∧ exec (.unpack32 b.toList) t = .next u ∧ u.response = some { result := .ok, valueOut := some v }

/-- The spec's own word view (30_encoding.md section 1, rule R61, decision D2): byte `i` of a frame is
`W[71-8i : 64-8i]`, and `W[39:8]` of a built frame is the pattern of its value. -/
def Obligations.FrameWordFields : Prop :=
  (∀ (f : FrameBytes) (k : Nat) (h : k < 9), (frameWord f).extractLsb' (64 - 8 * k) 8 = f[k])
    ∧ ∀ (a c t m : Byte) (v : Value), (frameWord (buildFrame a c t m v)).extractLsb' 8 32 = v

/-! ### The encode requests: each completes, and with what

Each rule below repeats the OPSEL number (the spec's decision D2) and the line of text (D25) of its request, and so does
its statement. -/

/-- R120: OPSEL 0x00, its line of text, and in every state that accepts requests the nine bytes written through, the
frame in FRAME and in the response, FRAME_VALID set, nothing else changed. -/
def Obligations.BuildWritesCommandFrame : Prop :=
  Selects 0x00 (fun r => .build r.addr r.cmd r.type r.motor r.value)
    ∧ ∀ (a c t m : Byte) (v : Value),
      Spells "BUILD" [byteInt a, byteInt c, byteInt t, byteInt m, s32 v] (.build a c t m v)
      ∧ PerformsEncode (.build a c t m v) a c t m v

/-- R130 and R131: ROR and ROL, their selectors, their lines with the motor index written or omitted, and their frames
with the wire opcode of their name, type 0 and the velocity as value. -/
def Obligations.RotateRequestsWriteFrames : Prop :=
  Selects 0x01 (fun r => .ror r.addr r.motor r.value) ∧ Selects 0x02 (fun r => .rol r.addr r.motor r.value)
    ∧ ∀ (a m : Byte) (v : Value),
      Spells "ROR" [byteInt a, s32 v, byteInt m] (.ror a m v) ∧ Spells "ROR" [byteInt a, s32 v] (.ror a 0 v)
      ∧ Spells "ROL" [byteInt a, s32 v, byteInt m] (.rol a m v) ∧ Spells "ROL" [byteInt a, s32 v] (.rol a 0 v)
      ∧ PerformsEncode (.ror a m v) a (Config.wireOp .ror) 0 m v
      ∧ PerformsEncode (.rol a m v) a (Config.wireOp .rol) 0 m v

/-- R132: MST ignores the VALUE field and writes value 0 whatever FRAME held. -/
def Obligations.StopRequestWritesZeroValue : Prop :=
  Selects 0x03 (fun r => .mst r.addr r.motor)
    ∧ ∀ a m : Byte,
      Spells "MST" [byteInt a, byteInt m] (.mst a m) ∧ Spells "MST" [byteInt a] (.mst a 0)
      ∧ PerformsEncode (.mst a m) a (Config.wireOp .mst) 0 m 0

/-- R133, R134 and R13: MVP.ABS writes type ABSOLUTE = 0 and MVP.REL type RELATIVE = 1, both with the opcode of MVP. -/
def Obligations.MoveRequestsWriteFrames : Prop :=
  Config.moveMode .absolute = 0 ∧ Config.moveMode .relative = 1
    ∧ Selects 0x04 (fun r => .mvpAbs r.addr r.motor r.value) ∧ Selects 0x05 (fun r => .mvpRel r.addr r.motor r.value)
    ∧ ∀ (a m : Byte) (v : Value),
      Spells "MVP.ABS" [byteInt a, s32 v, byteInt m] (.mvpAbs a m v)
      ∧ Spells "MVP.ABS" [byteInt a, s32 v] (.mvpAbs a 0 v)
      ∧ Spells "MVP.REL" [byteInt a, s32 v, byteInt m] (.mvpRel a m v)
      ∧ Spells "MVP.REL" [byteInt a, s32 v] (.mvpRel a 0 v)
      ∧ PerformsEncode (.mvpAbs a m v) a (Config.wireOp .mvp) 0 m v
      ∧ PerformsEncode (.mvpRel a m v) a (Config.wireOp .mvp) 1 m v

/-- R135 and R136: SAP writes the parameter number and the value, GAP the parameter number and value 0, ignoring the
VALUE field; every parameter number is written through. -/
def Obligations.AxisSetAndGetWriteFrames : Prop :=
  Selects 0x06 (fun r => .sap r.addr r.type r.motor r.value) ∧ Selects 0x07 (fun r => .gap r.addr r.type r.motor)
    ∧ ∀ (a p m : Byte) (v : Value),
      Spells "SAP" [byteInt a, byteInt p, s32 v, byteInt m] (.sap a p m v)
      ∧ Spells "SAP" [byteInt a, byteInt p, s32 v] (.sap a p 0 v)
      ∧ Spells "GAP" [byteInt a, byteInt p, byteInt m] (.gap a p m) ∧ Spells "GAP" [byteInt a, byteInt p] (.gap a p 0)
      ∧ PerformsEncode (.sap a p m v) a (Config.wireOp .sap) p m v
      ∧ PerformsEncode (.gap a p m) a (Config.wireOp .gap) p m 0

/-- The spec's decision D6 (42_encoder.md section 3, rules R137 and R138): STAP and RSAP write the parameter number and
value 0 (log entry 11). -/
def Obligations.AxisStoreAndRestoreWriteFrames : Prop :=
  Selects 0x08 (fun r => .stap r.addr r.type r.motor) ∧ Selects 0x09 (fun r => .rsap r.addr r.type r.motor)
    ∧ ∀ a p m : Byte,
      Spells "STAP" [byteInt a, byteInt p, byteInt m] (.stap a p m)
      ∧ Spells "STAP" [byteInt a, byteInt p] (.stap a p 0)
      ∧ Spells "RSAP" [byteInt a, byteInt p, byteInt m] (.rsap a p m)
      ∧ Spells "RSAP" [byteInt a, byteInt p] (.rsap a p 0)
      ∧ PerformsEncode (.stap a p m) a (Config.wireOp .stap) p m 0
      ∧ PerformsEncode (.rsap a p m) a (Config.wireOp .rsap) p m 0

/-- The spec's decisions D6 and D7 (42_encoder.md section 4, rules R139 to R142): the global-parameter requests write the
parameter number at offset 2 and the bank at offset 3, with value 0 for all but SGP (log entries 11 and 12). -/
def Obligations.GlobalParameterRequestsWriteFrames : Prop :=
  (Selects 0x0A (fun r => .sgp r.addr r.type r.motor r.value) ∧ Selects 0x0B (fun r => .ggp r.addr r.type r.motor)
    ∧ Selects 0x0C (fun r => .stgp r.addr r.type r.motor) ∧ Selects 0x0D (fun r => .rsgp r.addr r.type r.motor))
    ∧ ∀ (a p m : Byte) (v : Value),
      (Spells "SGP" [byteInt a, byteInt p, s32 v, byteInt m] (.sgp a p m v)
        ∧ Spells "SGP" [byteInt a, byteInt p, s32 v] (.sgp a p 0 v)
        ∧ Spells "GGP" [byteInt a, byteInt p, byteInt m] (.ggp a p m)
        ∧ Spells "GGP" [byteInt a, byteInt p] (.ggp a p 0)
        ∧ Spells "STGP" [byteInt a, byteInt p, byteInt m] (.stgp a p m)
        ∧ Spells "STGP" [byteInt a, byteInt p] (.stgp a p 0)
        ∧ Spells "RSGP" [byteInt a, byteInt p, byteInt m] (.rsgp a p m)
        ∧ Spells "RSGP" [byteInt a, byteInt p] (.rsgp a p 0))
      ∧ PerformsEncode (.sgp a p m v) a (Config.wireOp .sgp) p m v
      ∧ PerformsEncode (.ggp a p m) a (Config.wireOp .ggp) p m 0
      ∧ PerformsEncode (.stgp a p m) a (Config.wireOp .stgp) p m 0
      ∧ PerformsEncode (.rsgp a p m) a (Config.wireOp .rsgp) p m 0

/-- 30_encoding.md section 6 (rule R79): each of the thirteen convenience requests has, in every state, exactly the
effect of one BUILD; the value 0 and the bank's place of the parameter requests are the spec's decisions D6 and D7 (log
entries 11 and 12). -/
def Obligations.ConvenienceRequestsAreBuilds : Prop :=
  ∀ (a p m : Byte) (v : Value) (s : State),
    exec (.ror a m v) s = exec (.build a (Config.wireOp .ror) 0 m v) s
    ∧ exec (.rol a m v) s = exec (.build a (Config.wireOp .rol) 0 m v) s
    ∧ exec (.mst a m) s = exec (.build a (Config.wireOp .mst) 0 m 0) s
    ∧ exec (.mvpAbs a m v) s = exec (.build a (Config.wireOp .mvp) 0 m v) s
    ∧ exec (.mvpRel a m v) s = exec (.build a (Config.wireOp .mvp) 1 m v) s
    ∧ exec (.sap a p m v) s = exec (.build a (Config.wireOp .sap) p m v) s
    ∧ exec (.gap a p m) s = exec (.build a (Config.wireOp .gap) p m 0) s
    ∧ exec (.stap a p m) s = exec (.build a (Config.wireOp .stap) p m 0) s
    ∧ exec (.rsap a p m) s = exec (.build a (Config.wireOp .rsap) p m 0) s
    ∧ exec (.sgp a p m v) s = exec (.build a (Config.wireOp .sgp) p m v) s
    ∧ exec (.ggp a p m) s = exec (.build a (Config.wireOp .ggp) p m 0) s
    ∧ exec (.stgp a p m) s = exec (.build a (Config.wireOp .stgp) p m 0) s
    ∧ exec (.rsgp a p m) s = exec (.build a (Config.wireOp .rsgp) p m 0) s

/-- R125: no encode request raises an error or a fault, whatever its operands and whatever the state that accepts it
holds; and a reserved OPSEL, whose offer raises a fault, is not an encode request. -/
def Obligations.EncodeRequestsNeverFault : Prop :=
  (∀ (i : Instr) (s : State), isEncode i = true → s.Ready →
      ∃ t r, exec i s = .next t ∧ t.fault = .noFault ∧ t.response = some r ∧ r.result = .ok)
    ∧ ∀ (r : Request) (s : State), isReservedOpsel r.opsel = true → s.Ready →
      (∀ i, decode r ≠ .ok i) ∧ ∃ t, step (s.offer r) = .next t ∧ t.fault ≠ .noFault

/-! ### RDFRAME -/

/-- The spec's decisions D8 and D33 (42_encoder.md section 1, rule R127): OPSEL 0x14; RDFRAME delivers the nine bytes of
FRAME and changes nothing of the block, and while FRAME_VALID is 0 it raises FRAME_UNWRITTEN instead, as right after
reset. -/
def Obligations.RdframeReadsFrameBack : Prop :=
  Selects 0x14 (fun _ => .rdframe) ∧ Spells "RDFRAME" [] .rdframe
    ∧ (∀ (s : State) (f : FrameBytes), s.Ready → s.frameValid = true → s.HoldsFrame f →
        Answers .rdframe s { result := .ok, frameOut := some f })
    ∧ (∀ s : State, s.Ready → s.frameValid = false → RaisesFault .rdframe s .frameUnwritten)
    ∧ RaisesFault .rdframe State.reset .frameUnwritten

/-! ### DECODE -/

/-- R160, R161, R164: OPSEL 0x10 (the number is D2, the line D25, the fault D11, all as R160 has them); a byte count other than 9 is the fault CONTRACT_VIOLATION; nine bytes whose byte 8 is not
the sum of bytes 0 to 7 modulo 256 answer CHECKSUM_MISMATCH without a REPLY; otherwise OK with the four bytes and the
signed big-endian value. No state of the block is written but FAULT by the fault. -/
def Obligations.DecodeChecksThenExtracts : Prop :=
  Selects 0x10 (fun r => .decode r.bytes)
    ∧ (∀ buf : FrameBytes, Spells "DECODE" (buf.toList.map byteInt) (.decode buf.toList))
    ∧ ∀ s : State, s.Ready →
      (∀ bs : List Byte, bs.length ≠ 9 → RaisesFault (.decode bs) s .contractViolation)
      ∧ ∀ buf : FrameBytes,
        (¬ SumMatches buf → Answers (.decode buf.toList) s { result := .checksumMismatch })
        ∧ (SumMatches buf → ∃ value : Value,
          Answers (.decode buf.toList) s (okReply buf[0] buf[1] buf[2] buf[3] value)
          ∧ (buf[4].toNat < 128 → s32 value =
              buf[4].toNat * 16777216 + buf[5].toNat * 65536 + buf[6].toNat * 256 + buf[7].toNat)
          ∧ (128 ≤ buf[4].toNat → s32 value =
              buf[4].toNat * 16777216 + buf[5].toNat * 65536 + buf[6].toNat * 256 + buf[7].toNat - 4294967296))

/-- R63: the source's worked example, `[0,1,0,1,0,0,0,100,sum]` with its sum 102, decodes to receiver 0, module 1,
status 0, echoed command 1, value 100. -/
def Obligations.SourceExampleDecodes : Prop :=
  Answers (.decode [0, 1, 0, 1, 0, 0, 0, 100, 102]) State.reset (okReply 0 1 0 1 100) ∧ s32 100 = 100

/-- R167: nine zero bytes are a legitimate reply with every member 0, and the same bytes with a wrong checksum byte are a
mismatch with no member at all: RESULT alone tells them apart. -/
def Obligations.AllZeroReplyIsLegitimate : Prop :=
  ∀ s : State, s.Ready →
    Answers (.decode [0, 0, 0, 0, 0, 0, 0, 0, 0]) s (okReply 0 0 0 0 0)
    ∧ ∀ x : Byte, x ≠ 0 → Answers (.decode [0, 0, 0, 0, 0, 0, 0, 0, x]) s { result := .checksumMismatch }

/-- The spec's inference in R168 (43_decoder.md; 90_conflicts.md C9): DECODE of the frame a BUILD has just delivered
answers OK, with the opcode as moduleAddress and the motor index as echoedCommand. -/
def Obligations.LoopedBackFrameDecodes : Prop :=
  ∀ (a c t m : Byte) (v : Value) (s : State), s.Ready → ∃ s' f, exec (.build a c t m v) s = .next s'
    ∧ s'.response = some { result := .ok, frameOut := some f }
    ∧ Answers (.decode f.toList) s' (okReply a c t m v)

/-- The spec's inference in R106 (40_checksum.md section 3; 90_conflicts.md C8): one flipped bit of any one of the nine
bytes of a valid frame makes DECODE answer CHECKSUM_MISMATCH. -/
def Obligations.SingleBitErrorIsDetected : Prop :=
  ∀ (f : FrameBytes) (s : State) (k n : Nat) (hk : k < 9), n < 8 → SumMatches f → s.Ready →
    Answers (.decode (f.set k (f[k] ^^^ BitVec.twoPow 8 n)).toList) s { result := .checksumMismatch }

/-- The spec's inference in R107 (40_checksum.md section 3): raising one of bytes 0 to 7 by `d` and lowering another by
`d`, or flipping bit 7 of both, goes undetected: DECODE answers OK with the members of the corrupted bytes. -/
def Obligations.CompensatingErrorsPass : Prop :=
  ∀ (f g : FrameBytes) (s : State) (j k : Nat) (hj : j < 8) (hk : k < 8) (d : Byte), j ≠ k → SumMatches f → s.Ready →
    (g = (f.set j (f[j] + d)).set k (f[k] - d)
      ∨ g = (f.set j (f[j] ^^^ BitVec.twoPow 8 7)).set k (f[k] ^^^ BitVec.twoPow 8 7)) →
    ∃ value : Value, unpack32 #v[g[4], g[5], g[6], g[7]] = value
      ∧ Answers (.decode g.toList) s (okReply g[0] g[1] g[2] g[3] value)

/-- R201: CHECKSUM_MISMATCH, code 1, is answered only by DECODE of nine bytes whose byte 8 is not their sum; it records
nothing, no state of the block changes, it is not a fault, and the next offer is taken normally. -/
def Obligations.MismatchOnlyFromDecode : Prop :=
  ResultCode.checksumMismatch.code = 1
    ∧ ∀ (i : Instr) (s t : State) (r : Response), exec i s = .next t → t.response = some r →
      r.result = .checksumMismatch →
        (∃ buf : FrameBytes, i = .decode buf.toList ∧ ¬ SumMatches buf) ∧ r = { result := .checksumMismatch }
        ∧ s.SameBlock t ∧ t.fault = .noFault
        ∧ ∀ (q : Request) (j : Instr), decode q = .ok j → step (t.offer q) = exec j t

/-! ### CKSUM, PACK32, UNPACK32 -/

/-- The spec's decisions D11 and D27 (40_checksum.md section 1, rule R100): OPSEL 0x11; CKSUM answers the sum of its eight
bytes modulo 256, changes nothing of the block, and with any other byte count raises CONTRACT_VIOLATION. -/
def Obligations.CksumAnswersSum : Prop :=
  Selects 0x11 (fun r => .cksum r.bytes)
    ∧ (∀ b : Vector Byte 8, Spells "CKSUM" (b.toList.map byteInt) (.cksum b.toList))
    ∧ ∀ s : State, s.Ready →
      (∀ bs : List Byte, bs.length ≠ 8 → RaisesFault (.cksum bs) s .contractViolation)
      ∧ ∀ b : Vector Byte 8, ∃ x : Byte,
        x.toNat = (b[0].toNat + b[1].toNat + b[2].toNat + b[3].toNat + b[4].toNat + b[5].toNat + b[6].toNat
          + b[7].toNat) % 256
        ∧ Answers (.cksum b.toList) s { result := .ok, byteOut := some x }

/-- The spec's decisions D11 and D27 (41_value_packer.md section 2, rules R112 and R113): OPSEL 0x12 and 0x13; PACK32
answers the big-endian bytes, UNPACK32 the signed value, neither changes the block, and UNPACK32 of a byte count other
than 4 raises CONTRACT_VIOLATION. -/
def Obligations.PackerRequestsAnswer : Prop :=
  Selects 0x12 (fun r => .pack32 r.value) ∧ Selects 0x13 (fun r => .unpack32 r.bytes)
    ∧ (∀ v : Value, Spells "PACK32" [s32 v] (.pack32 v))
    ∧ (∀ b : Vector Byte 4, Spells "UNPACK32" (b.toList.map byteInt) (.unpack32 b.toList))
    ∧ ∀ s : State, s.Ready →
      (∀ v : Value, ∃ b : Vector Byte 4, Answers (.pack32 v) s { result := .ok, bytesOut := some b }
        ∧ b[0].toNat * 16777216 + b[1].toNat * 65536 + b[2].toNat * 256 + b[3].toNat = v.toNat)
      ∧ (∀ bs : List Byte, bs.length ≠ 4 → RaisesFault (.unpack32 bs) s .contractViolation)
      ∧ ∀ b : Vector Byte 4, ∃ v : Value, Answers (.unpack32 b.toList) s { result := .ok, valueOut := some v }
        ∧ (b[0].toNat < 128 → s32 v =
            b[0].toNat * 16777216 + b[1].toNat * 65536 + b[2].toNat * 256 + b[3].toNat)
        ∧ (128 ≤ b[0].toNat → s32 v =
            b[0].toNat * 16777216 + b[1].toNat * 65536 + b[2].toNat * 256 + b[3].toNat - 4294967296)

/-! ### Frames of the instructions: what each leaves unchanged -/

/-- BUILD, ROR, ROL, MST, MVP.ABS, MVP.REL, SAP, GAP, STAP, RSAP, SGP, GGP, STGP, RSGP (10_state.md section 1, rule R21,
decision D9): when one of them answers a next state, no byte outside offsets 0 to 8 changed, nor FAULT, nor the caller's
sequence; in a state that does not accept it, no byte and not FRAME_VALID either. -/
def Obligations.EncodeRequestsFrame : Prop :=
  ∀ (i : Instr) (s t : State), isEncode i = true → exec i s = .next t →
    (∀ a, 9 ≤ a → t.frame.read a = s.frame.read a) ∧ t.fault = s.fault ∧ t.inputs = s.inputs
    ∧ (¬ s.Ready → s.SameBlock t ∧ t.response = none)

/-- DECODE, CKSUM, PACK32, UNPACK32, RDFRAME, the five that are no encode request (10_state.md section 1, rule R21, and 43_decoder.md rule R165, decision
D10): when one of them answers a next state, every byte of storage, FRAME_VALID and the caller's sequence are unchanged,
and FAULT too unless this request raised it. -/
def Obligations.ReadingRequestsFrame : Prop :=
  ∀ (i : Instr) (s t : State), isEncode i = false → exec i s = .next t →
    (∀ a, t.frame.read a = s.frame.read a) ∧ t.frameValid = s.frameValid ∧ t.inputs = s.inputs
    ∧ (t.fault ≠ s.fault → s.fault = .noFault ∧ t.response = none)

/-! ### Faults -/

/-- The spec's decisions D13 to D15 (60_exceptions.md sections 1 and 2, rules R203 to R206): in a state that accepts it an
instruction records CONTRACT_VIOLATION exactly when its byte count is wrong, FRAME_UNWRITTEN exactly when it is RDFRAME
while FRAME_VALID is 0, never ILLEGAL_REQUEST; a fault delivers no response and leaves FRAME and FRAME_VALID. -/
def Obligations.FaultsAreExactlyTheTable : Prop :=
  ∀ (i : Instr) (s t : State), s.Ready → exec i s = .next t →
    (t.fault = .contractViolation ↔ (∃ bs, i = .decode bs ∧ bs.length ≠ 9) ∨ (∃ bs, i = .cksum bs ∧ bs.length ≠ 8)
      ∨ ∃ bs, i = .unpack32 bs ∧ bs.length ≠ 4)
    ∧ (t.fault = .frameUnwritten ↔ i = .rdframe ∧ s.frameValid = false)
    ∧ t.fault ≠ .illegalRequest
    ∧ (t.fault ≠ .noFault → t.response = none ∧ t.frameValid = s.frameValid ∧ ∀ a, t.frame.read a = s.frame.read a)

/-- The spec's decision D14 (60_exceptions.md section 1, rule R204): while FAULT is set no request is accepted, whatever
it is: every instruction and every offered request, one with a reserved selector too, leaves the block unchanged and
delivers nothing. That the offer leaves the caller's sequence is the model's choice (log entry 3). -/
def Obligations.NothingAcceptedAfterFault : Prop :=
  ∀ s : State, ¬ s.Ready →
    (∀ i : Instr, ∃ t, exec i s = .next t ∧ s.SameBlock t ∧ t.inputs = s.inputs ∧ t.response = none)
    ∧ ∀ r : Request, ∃ t, step (s.offer r) = .next t ∧ s.SameBlock t ∧ t.inputs = s.inputs ∧ t.response = none

/-- The spec's decisions D3 and D15 (30_encoding.md section 4, rule R73; 60_exceptions.md section 2, rule R205): an
accepted request with a reserved OPSEL raises ILLEGAL_REQUEST whatever its other fields hold, its byte string too, and
writes no other state. -/
def Obligations.ReservedSelectorRaisesIllegalRequest : Prop :=
  ∀ (r : Request) (s : State), isReservedOpsel r.opsel = true → s.Ready →
    ∃ t, step (s.offer r) = .next t ∧ t.fault = .illegalRequest ∧ t.frameValid = s.frameValid
      ∧ (∀ a, t.frame.read a = s.frame.read a) ∧ t.inputs = s.inputs ∧ t.response = none

/-- The spec's decision D13 (30_encoding.md section 4, rule R72; 60_exceptions.md section 1, rule R203): the codes of
RESULT and FAULT. -/
def Obligations.ResultAndFaultCodes : Prop :=
  ResultCode.ok.code = 0 ∧ ResultCode.checksumMismatch.code = 1 ∧ FaultRecord.noFault.code = 0
    ∧ FaultRecord.contractViolation.code = 1 ∧ FaultRecord.illegalRequest.code = 2
    ∧ FaultRecord.frameUnwritten.code = 3

/-! ### The response -/

/-- The spec's decisions D2 and D13 (30_encoding.md section 4, rule R72): the fields a response has are those of its
operation and no others, and a request that is accepted delivers a response exactly when it does not fault. -/
def Obligations.ResponseFieldsAreThoseOfTheOperation : Prop :=
  ∀ (i : Instr) (s t : State), exec i s = .next t →
    (t.response = none ↔ t.fault ≠ .noFault)
    ∧ ∀ r, t.response = some r →
      (r.frameOut.isSome ↔ isEncode i = true ∨ i = .rdframe)
      ∧ (r.byteOut.isSome ↔ ∃ bs, i = .cksum bs) ∧ (r.bytesOut.isSome ↔ ∃ v, i = .pack32 v)
      ∧ (r.valueOut.isSome ↔ ∃ bs, i = .unpack32 bs)
      ∧ (r.reply.isSome ↔ (∃ bs, i = .decode bs) ∧ r.result = .ok)

/-- The spec's inferences in R122 and R241 (42_encoder.md section 1, 70_reset_and_hazards.md section 1): but for RDFRAME,
what a request answers and the frame an encode request leaves depend on the request alone, never on what FRAME held
before, right after reset as at any later time. -/
def Obligations.OutcomeIndependentOfFormerFrame : Prop :=
  ∀ (i : Instr) (s s' : State), i ≠ .rdframe → s.Ready → s'.Ready →
    ∃ t t', exec i s = .next t ∧ exec i s' = .next t' ∧ t.response = t'.response ∧ t.fault = t'.fault
      ∧ (isEncode i = true → ∀ a, a < 9 → t.frame.read a = t'.frame.read a ∧ (t.frame.read a).isSome)

/-- The spec's inference in R47 (20_memory.md section 3): a request that did not fault, issued a second time at once,
answers the same and leaves the block as the first issue left it. -/
def Obligations.RepeatedRequestChangesNothing : Prop :=
  ∀ (i : Instr) (s t : State), exec i s = .next t → t.Ready →
    ∃ u, exec i t = .next u ∧ t.SameBlock u ∧ u.response = t.response

/-! ### Steps and runs -/

/-- A step runs the decoded instruction (10_state.md section 3, rule R28, and 20_memory.md section 4, rule R48): when the
offer at the head of the caller's sequence is a request that decodes to `i`, the step is `exec i` on the state without
that offer. -/
def Obligations.StepRunsDecodedRequest : Prop :=
  ∀ (s : State) (r : Request) (i : Instr) (rest : List Input), s.inputs = .request r :: rest → decode r = .ok i →
    step s = exec i { s with inputs := rest }

/-- The spec's decisions D8 and D29 (70_reset_and_hazards.md section 1, rule R240; 60_exceptions.md section 5, rule
R214): an offered reset puts the block into its reset values whatever FAULT held, and with nothing offered the block
holds its state. That reset is an offer and that the rest of the sequence stays is the model's choice (log entries 4 and
20). -/
def Obligations.ResetAndIdleSteps : Prop :=
  ∀ s : State,
    (∀ rest, s.inputs = .reset :: rest → ∃ t, step s = .next t ∧ (∀ a, t.frame.read a = none)
      ∧ t.frameValid = false ∧ t.fault = .noFault ∧ t.inputs = rest ∧ t.response = none)
    ∧ (s.inputs = [] → ∃ t, step s = .next t ∧ s.SameBlock t ∧ t.inputs = [] ∧ t.response = none)

/-- The invariant holds at reset. -/
def Obligations.ResetMeetsInvariant : Prop := State.reset.Inv

/-- The invariant of the block is kept by every step: canonical storage with nothing past offset 8; FRAME empty while
FRAME_VALID is 0 and holding a frame with its own checksum while it is 1; a delivered frame is the one FRAME holds; a
mismatch carries no field; nothing is delivered while FAULT is set; FRAME_UNWRITTEN only while nothing was encoded. -/
def Obligations.StepKeepsBlockInvariant : Prop :=
  ∀ s t : State, s.Inv → step s = .next t → t.Inv

/-- R64: in every state that meets the invariant, a frame that a step delivers carries the sum of its bytes 0 to 7 modulo
256 as byte 8, recomputed or read back, and a reply that a step delivers was extracted from nine bytes whose byte 8 was
verified against that sum. -/
def Obligations.FramesAreCheckedBothWays : Prop :=
  ∀ (i : Instr) (s t : State) (r : Response), s.Inv → exec i s = .next t → t.response = some r →
    (∀ f, r.frameOut = some f → SumMatches f ∧ t.HoldsFrame f)
    ∧ ∀ p, r.reply = some p → ∃ buf : FrameBytes, i = .decode buf.toList ∧ SumMatches buf

/-- Progress (70_reset_and_hazards.md section 4, rule R249, decision D28): a step never refuses; it stops only at RDFRAME
reading a byte of FRAME that nothing has written, which the invariant excludes, so every step from a state that meets
the invariant completes. -/
def Obligations.StepsComplete : Prop :=
  ∀ s : State,
    ((∃ t, step s = .next t)
      ∨ ∃ r rest a, s.inputs = .request r :: rest ∧ decode r = .ok .rdframe ∧ s.Ready ∧ s.frameValid = true ∧ a < 9
        ∧ s.frame.read a = none ∧ step s = .fault (.frameByteAbsent a))
    ∧ (s.Inv → ∃ t, step s = .next t)

/-- The spec's decision D14 (10_state.md section 2, rule R25; 60_exceptions.md section 1, rule R204), over whole runs:
from any state with FAULT set, however many offers without a reset follow, every step completes, FAULT, FRAME and
FRAME_VALID stay as they were, and nothing is delivered. -/
def Obligations.FaultStaysUntilReset : Prop :=
  ∀ (n : Nat) (s : State), ¬ s.Ready → (∀ x ∈ s.inputs.take n, x ≠ .reset) →
    ∃ t, Host.Core.run Sys2Proof.core n s = .next t ∧ s.SameBlock t ∧ t.inputs = s.inputs.drop n
      ∧ (0 < n → t.response = none)

/-- FRAME's lifetime (10_state.md section 1, rule R22), over whole runs: after an encode request completes, FRAME holds the
frame it built and keeps it through any number of offers that are no encode request and no reset; read back then, in a
state that still accepts requests, it is the same frame. Clauses that rest on more than R22: the frames of STAP, RSAP,
GGP, STGP and RSGP and the bank's place are the spec's decisions D6 and D7 (log entries 11 and 12); that every one of
the n steps completes, through offers turned away and idle steps, is the model's choice (log entries 3 and 20); the
read-back by RDFRAME is R127, the spec's decisions D8 and D33. -/
def Obligations.FrameKeptUntilNextEncode : Prop :=
  ∀ (i : Instr) (a c p m : Byte) (v : Value) (s t : State), encodeOperands i = some (a, c, p, m, v) → s.Ready →
    exec i s = .next t →
    ∃ f, CommandLayout f a c p m v ∧ t.HoldsFrame f
      ∧ ∀ n, (∀ x ∈ t.inputs.take n, x.NoEncode) →
        ∃ u, Host.Core.run Sys2Proof.core n t = .next u ∧ u.HoldsFrame f ∧ u.frameValid = true
          ∧ (u.Ready → Answers .rdframe u { result := .ok, frameOut := some f })

/-- The spec's decision D18 (20_memory.md section 4, rule R49; 70_reset_and_hazards.md section 3, rules R244 and R245):
when a second encode request is accepted between an encode request and a read, whoever issued it, the read delivers the
second frame. -/
def Obligations.LaterEncodeReplacesFrame : Prop :=
  ∀ (i j : Instr) (s : State) (rest : List Input) (a c p m : Byte) (v : Value), isEncode i = true →
    encodeOperands j = some (a, c, p, m, v) → s.Ready →
    s.inputs = .request (encode i) :: .request (encode j) :: .request { opsel := 0x14 } :: rest →
    ∃ t f, Host.Core.run Sys2Proof.core 3 s = .next t ∧ CommandLayout f a c p m v
      ∧ t.response = some { result := .ok, frameOut := some f } ∧ t.inputs = rest
end

