-- ==== Sys2Proof/Laws/Assembler.lean ====
section
/-! SUPPORT. What filling a line's operands into fields does, on the byte lines and on the others. -/

namespace Sys2Proof.Machine

/-- Operands that all go to bytes are appended to BYTES in order. -/
theorem setOperands_bytes (q : RawRequest) (xs : List Int) :
    setOperands q (List.replicate xs.length .byte) xs = some { q with bytes := q.bytes ++ xs } := by
  induction xs generalizing q with
  | nil => simp [setOperands]
  | cons x xs ih => simp [List.replicate_succ, setOperands, ih, LineField.set]

/-- A byte line takes any operands, into BYTES. -/
theorem LineForm.fill_byteLine {form : LineForm} (h : form.operands.contains .byte = true) (xs : List Int) :
    form.fill xs = some { opsel := form.opsel, bytes := xs } := by
  simp only [LineForm.fill, LineForm.fields, h, if_true, setOperands_bytes, List.nil_append]

/-- Putting operands into fields succeeds exactly when there are as many of one as of the other. -/
theorem setOperands_isSome (q : RawRequest) (fs : List LineField) (xs : List Int) :
    (setOperands q fs xs).isSome = true ↔ xs.length = fs.length := by
  induction fs generalizing q xs with
  | nil => cases xs <;> simp [setOperands]
  | cons f fs ih => cases xs <;> simp [setOperands, ih]

end Sys2Proof.Machine
end

