-- ==== Sys2Proof/Laws/Operands.lean ====
section
/-! SUPPORT. The small lemmas of operand forms, the packer, the checksum and the frames. -/

namespace Sys2Proof.Machine

theorem exactly_eq_some {n : Nat} {bs : List Byte} {v : Vector Byte n} : exactly n bs = some v ↔ bs = v.toList := by
  unfold exactly
  split
  · rename_i h
    simp only [Option.some.injEq]
    constructor
    · rintro rfl
      simp
    · rintro rfl
      cases v
      simp [Vector.toList]
  · rename_i h
    simp only [reduceCtorEq, false_iff]
    rintro rfl
    exact h (by simp)

theorem exactly_eq_none {n : Nat} {bs : List Byte} : exactly n bs = none ↔ bs.length ≠ n := by
  unfold exactly
  split <;> simp_all

@[simp] theorem exactly_toList {n : Nat} (v : Vector Byte n) : exactly n v.toList = some v :=
  exactly_eq_some.mpr rfl

/-- The checksum without its loop. -/
theorem checksum_eq_sum (b : Vector Byte 8) :
    checksum b = b[0] + b[1] + b[2] + b[3] + b[4] + b[5] + b[6] + b[7] := by
  obtain ⟨⟨l⟩, h⟩ := b
  match l, h with
  | [_, _, _, _, _, _, _, _], _ => simp [checksum, Vector.toList]

/-- The checksum of bytes 0 to 7 of a frame. -/
theorem checksum_frameBody (f : FrameBytes) :
    checksum (frameBody f) = f[0] + f[1] + f[2] + f[3] + f[4] + f[5] + f[6] + f[7] :=
  checksum_eq_sum _

theorem checksumOk_iff (f : FrameBytes) :
    checksumOk f = true ↔ f[0] + f[1] + f[2] + f[3] + f[4] + f[5] + f[6] + f[7] = f[8] := by
  simp [checksumOk, checksum_frameBody]

/-- The frame the encoder builds carries its own checksum. -/
theorem checksumOk_buildFrame (a c t m : Byte) (v : Value) : checksumOk (buildFrame a c t m v) = true := by
  simp [checksumOk_iff, buildFrame, checksum_eq_sum]

/-- The pattern four bytes hold, on integers. -/
theorem toNat_unpack32 (b : Vector Byte 4) :
    (unpack32 b).toNat = b[0].toNat * 16777216 + b[1].toNat * 65536 + b[2].toNat * 256 + b[3].toNat := by
  have h1 := b[1].isLt
  have h2 := b[2].isLt
  have h3 := b[3].isLt
  simp only [unpack32, BitVec.toNat_append]
  rw [← Nat.shiftLeft_add_eq_or_of_lt h1, ← Nat.shiftLeft_add_eq_or_of_lt h2, ← Nat.shiftLeft_add_eq_or_of_lt h3]
  simp only [Nat.shiftLeft_eq]
  omega

/-- The sign rule of R15 is the library's two's-complement reading. -/
theorem s32_eq_toInt (u : Value) : s32 u = u.toInt := by
  simp only [s32, BitVec.toInt_eq_msb_cond, BitVec.msb_eq_getLsbD_last]
  norm_num

end Sys2Proof.Machine
end

