-- ==== Sys2Proof/Laws/State.lean ====
section
/-! SUPPORT. One lemma per field per state update: no later proof unfolds a record update. -/

namespace Sys2Proof.Machine

variable (s : State) (r : Response) (k : FaultRecord) (q : Request)

@[simp] theorem State.respond_frame : (s.respond r).frame = s.frame := rfl
@[simp] theorem State.respond_frameValid : (s.respond r).frameValid = s.frameValid := rfl
@[simp] theorem State.respond_fault : (s.respond r).fault = s.fault := rfl
@[simp] theorem State.respond_inputs : (s.respond r).inputs = s.inputs := rfl
@[simp] theorem State.respond_response : (s.respond r).response = some r := rfl

@[simp] theorem State.raise_frame : (s.raise k).frame = s.frame := rfl
@[simp] theorem State.raise_frameValid : (s.raise k).frameValid = s.frameValid := rfl
@[simp] theorem State.raise_fault : (s.raise k).fault = k := rfl
@[simp] theorem State.raise_inputs : (s.raise k).inputs = s.inputs := rfl
@[simp] theorem State.raise_response : (s.raise k).response = none := rfl

@[simp] theorem State.turnAway_frame : s.turnAway.frame = s.frame := rfl
@[simp] theorem State.turnAway_frameValid : s.turnAway.frameValid = s.frameValid := rfl
@[simp] theorem State.turnAway_fault : s.turnAway.fault = s.fault := rfl
@[simp] theorem State.turnAway_inputs : s.turnAway.inputs = s.inputs := rfl
@[simp] theorem State.turnAway_response : s.turnAway.response = none := rfl

@[simp] theorem State.idle_frame : s.idle.frame = s.frame := rfl
@[simp] theorem State.idle_frameValid : s.idle.frameValid = s.frameValid := rfl
@[simp] theorem State.idle_fault : s.idle.fault = s.fault := rfl
@[simp] theorem State.idle_inputs : s.idle.inputs = s.inputs := rfl
@[simp] theorem State.idle_response : s.idle.response = none := rfl

@[simp] theorem State.doReset_frame : s.doReset.frame = [] := rfl
@[simp] theorem State.doReset_frameValid : s.doReset.frameValid = false := rfl
@[simp] theorem State.doReset_fault : s.doReset.fault = .noFault := rfl
@[simp] theorem State.doReset_inputs : s.doReset.inputs = s.inputs := rfl
@[simp] theorem State.doReset_response : s.doReset.response = none := rfl

@[simp] theorem State.offer_frame : (s.offer q).frame = s.frame := rfl
@[simp] theorem State.offer_frameValid : (s.offer q).frameValid = s.frameValid := rfl
@[simp] theorem State.offer_fault : (s.offer q).fault = s.fault := rfl
@[simp] theorem State.offer_inputs : (s.offer q).inputs = .request q :: s.inputs := rfl
@[simp] theorem State.offer_response : (s.offer q).response = s.response := rfl

@[simp] theorem State.reset_frame : State.reset.frame = [] := rfl
@[simp] theorem State.reset_frameValid : State.reset.frameValid = false := rfl
@[simp] theorem State.reset_fault : State.reset.fault = .noFault := rfl
@[simp] theorem State.reset_inputs : State.reset.inputs = [] := rfl
@[simp] theorem State.reset_response : State.reset.response = none := rfl

theorem State.takeInput_nil {s : State} (h : s.inputs = []) : s.takeInput = none := by
  simp [State.takeInput, h]

theorem State.takeInput_cons {s : State} {i : Input} {rest : List Input} (h : s.inputs = i :: rest) :
    s.takeInput = some (i, { s with inputs := rest }) := by
  simp [State.takeInput, h]

end Sys2Proof.Machine
end

