-- ==== Sys2Proof/Laws/Storage.lean ====
section
/-! SUPPORT. The laws of storage: a read after a write, the canonical form kept, and what MemRead and MemWrite do. -/

namespace Sys2Proof.Machine

@[simp] theorem Memory.read_nil (a : Nat) : Memory.read [] a = none := rfl

theorem Memory.read_cons (c : Host.Cell) (m : Memory) (a : Nat) :
    Memory.read (c :: m) a = if a = c.1 then some c.2 else Memory.read m a := by
  unfold Memory.read
  by_cases h : a = c.1
  · simp [List.lookup, h]
  · simp [List.lookup, h, beq_eq_false_iff_ne.mpr h]

/-- A read after a write of one byte: the written byte at its own offset, the old contents everywhere else. -/
@[simp] theorem Memory.read_write (m : Memory) (a a' : Nat) (b : Byte) :
    (m.write a b).read a' = if a' = a then some b else m.read a' := by
  induction m with
  | nil => simp [Memory.write, Memory.read_cons]
  | cons c rest ih =>
    unfold Memory.write
    split
    · simp [Memory.read_cons]
    · split
      · rename_i h
        subst h
        simp only [Memory.read_cons]
        split <;> rfl
      · rename_i h
        simp only [Memory.read_cons, ih]
        split
        · rename_i h'
          subst h'
          rw [if_neg (Ne.symm h)]
        · rfl

theorem Memory.mem_keys_write {m : Memory} {a k : Nat} {b : Byte} (h : k ∈ (m.write a b).map Prod.fst) :
    k = a ∨ k ∈ m.map Prod.fst := by
  induction m with
  | nil => simpa [Memory.write] using h
  | cons c rest ih =>
    unfold Memory.write at h
    split at h
    · simpa using h
    · split at h
      · rename_i hc
        subst hc
        simp only [List.map_cons, List.mem_cons] at h ⊢
        tauto
      · simp only [List.map_cons, List.mem_cons] at h ⊢
        rcases h with h | h
        · exact .inr (.inl h)
        · rcases ih h with h | h
          · exact .inl h
          · exact .inr (.inr h)

/-- Writing a byte keeps the canonical form. -/
theorem Memory.write_wf {m : Memory} (a : Nat) (b : Byte) (h : m.wf) : (m.write a b).wf := by
  induction m with
  | nil => simp [Memory.write, Memory.wf]
  | cons c rest ih =>
    simp only [Memory.wf, List.map_cons, List.pairwise_cons] at h ⊢
    unfold Memory.write
    split
    · rename_i hlt
      simp only [List.map_cons, List.pairwise_cons, List.mem_cons]
      exact ⟨fun k hk => hk.elim (fun e => e ▸ hlt) fun hk => hlt.trans (h.1 k hk), h⟩
    · split
      · rename_i he
        subst he
        simpa only [List.map_cons, List.pairwise_cons] using h
      · rename_i hlt hne
        simp only [List.map_cons, List.pairwise_cons]
        refine ⟨fun k hk => ?_, ih h.2⟩
        rcases Memory.mem_keys_write hk with rfl | hk
        · omega
        · exact h.1 k hk

/-- Storage after reset is in canonical form. -/
theorem State.reset_frame_wf : State.reset.frame.wf := by simp [Memory.wf]

/-- What MemWrite does when it answers: the bytes at their offsets, every other offset as before, the form kept. -/
theorem memWrite_spec {m m' : Memory} {start : Nat} {bs : List Byte} (h : memWrite m start bs = .ok m') :
    (∀ a, m'.read a = if h : start ≤ a ∧ a < start + bs.length then some (bs[a - start]'(by omega)) else m.read a)
      ∧ (m.wf → m'.wf) := by
  induction bs generalizing m start with
  | nil =>
    cases h
    refine ⟨fun a => ?_, id⟩
    rw [dif_neg (by simp)]
  | cons b bs ih =>
    unfold memWrite at h
    split at h
    · obtain ⟨hr, hw⟩ := ih h
      refine ⟨fun a => ?_, fun hm => hw (Memory.write_wf _ _ hm)⟩
      rw [hr a]
      by_cases ha : a = start
      · subst ha
        rw [dif_neg (by omega), dif_pos (by simp)]
        simp
      · by_cases hin : start + 1 ≤ a ∧ a < start + 1 + bs.length
        · rw [dif_pos hin, dif_pos (by simp only [List.length_cons]; omega)]
          obtain ⟨j, rfl⟩ : ∃ j, a = start + 1 + j := ⟨a - (start + 1), by omega⟩
          simp [show start + 1 + j - start = j + 1 by omega]
        · rw [dif_neg hin, dif_neg (by simp only [List.length_cons]; omega)]
          simp [ha]
    · cases h

/-- MemWrite inside the nine offsets answers. -/
theorem memWrite_ok {m : Memory} {start : Nat} {bs : List Byte} (h : start + bs.length ≤ frameLen) :
    ∃ m', memWrite m start bs = .ok m' := by
  induction bs generalizing m start with
  | nil => exact ⟨m, rfl⟩
  | cons b bs ih =>
    simp only [List.length_cons, frameLen] at h
    unfold memWrite
    rw [if_pos (by simp only [frameLen]; omega)]
    exact ih (by simp only [frameLen]; omega)

theorem readByte_eq_ok {m : Memory} {a : Nat} {b : Byte} :
    readByte m a = .ok b ↔ a < frameLen ∧ m.read a = some b := by
  unfold readByte
  split
  · split <;> simp_all
  · simp_all

/-- What MemRead answers: the listed bytes, in offset order, exactly when every one of them is there. -/
theorem memRead_eq_ok {m : Memory} {start n : Nat} {v : Vector Byte n} :
    memRead m start n = .ok v ↔ ∀ k (h : k < n), start + k < frameLen ∧ m.read (start + k) = some v[k] := by
  induction n with
  | zero =>
    constructor
    · intro _ k hk
      omega
    · intro _
      simp [memRead]
  | succ n ih =>
    unfold memRead
    constructor
    · intro h
      split at h
      · cases h
      · rename_i bs hbs
        split at h
        · cases h
        · rename_i b hb
          cases h
          intro k hk
          by_cases hkn : k = n
          · subst hkn
            simpa using readByte_eq_ok.mp hb
          · have := ih.mp hbs k (by omega)
            rw [Vector.getElem_push_lt (by omega)]
            exact this
    · intro h
      have hpop : memRead m start n = .ok v.pop := ih.mpr fun k hk => by
        have := h k (by omega)
        rw [Vector.getElem_pop]
        exact this
      have hlast : readByte m (start + n) = .ok v[n] := readByte_eq_ok.mpr (h n (by omega))
      simp only [hpop, hlast]
      congr 1
      ext k hk
      by_cases hkn : k = n
      · subst hkn
        simp
      · rw [Vector.getElem_push_lt (by omega), Vector.getElem_pop]

/-- Where a MemRead inside `FRAME` stops: at a byte nothing has written. -/
theorem memRead_eq_error {m : Memory} {start n : Nat} {e : Fault} (hn : start + n ≤ frameLen)
    (h : memRead m start n = .error e) :
    ∃ a, start ≤ a ∧ a < start + n ∧ m.read a = none ∧ e = .frameByteAbsent a := by
  induction n with
  | zero => simp [memRead] at h
  | succ n ih =>
    unfold memRead at h
    split at h
    · rename_i e' he
      cases h
      obtain ⟨a, h1, h2, h3, h4⟩ := ih (by omega) he
      exact ⟨a, h1, by omega, h3, h4⟩
    · split at h
      · rename_i e' he
        cases h
        unfold readByte at he
        rw [if_pos (by omega)] at he
        split at he
        · cases he
        · rename_i hnone
          cases he
          exact ⟨start + n, by omega, by omega, hnone, rfl⟩
      · cases h

end Sys2Proof.Machine
end

