-- ==== Sys2Proof/Laws/Exec.lean ====
section
/-! SUPPORT. What each shared operation and each meaning answers, said once. -/

namespace Sys2Proof.Machine

theorem State.accept_ready {s : State} (h : s.Ready) (p : State → StepResult) : s.accept p = p s := by
  simp [State.accept, show s.fault = .noFault from h]

theorem State.accept_faulted {s : State} (h : ¬ s.Ready) (p : State → StepResult) :
    s.accept p = .next s.turnAway := by
  simp [State.accept, show ¬ s.fault = .noFault from h]

/-- Everything `encode` of R120 does: it always answers, with the frame in storage and delivered. -/
theorem State.encodeFrame_next (s : State) (a c t m : Byte) (v : Value) :
    ∃ mem, s.encodeFrame a c t m v = .next (State.respond { s with frame := mem, frameValid := true }
        { result := .ok, frameOut := some (buildFrame a c t m v) })
      ∧ (∀ k (h : k < 9), mem.read k = some (buildFrame a c t m v)[k])
      ∧ (∀ k, 9 ≤ k → mem.read k = s.frame.read k) ∧ (s.frame.wf → mem.wf) := by
  have hlen : (buildFrame a c t m v).toList.length = 9 := by simp
  obtain ⟨mem, hmem⟩ := memWrite_ok (m := s.frame) (start := 0) (bs := (buildFrame a c t m v).toList)
    (by simp [frameLen])
  obtain ⟨hread, hwf⟩ := memWrite_spec hmem
  refine ⟨mem, by simp only [State.encodeFrame, hmem], fun k hk => ?_, fun k hk => ?_, hwf⟩
  · rw [hread k, dif_pos (by omega)]
    simp
  · rw [hread k, dif_neg (by omega)]

/-- An encode request performs `encode` with the operands its rule fixes (R126). -/
theorem exec_of_encodeOperands {i : Instr} {a c t m : Byte} {v : Value}
    (h : encodeOperands i = some (a, c, t, m, v)) (s : State) :
    exec i s = s.accept fun s => s.encodeFrame a c t m v := by
  cases i <;> simp [encodeOperands] at h <;> obtain ⟨rfl, rfl, rfl, rfl, rfl⟩ := h <;> rfl

/-- A byte-string request with the right count delivers what it computes; with any other it raises. -/
theorem State.withBytes_eq (s : State) (n : Nat) (bytes : List Byte) (p : Vector Byte n → Response) :
    (∃ v, bytes = v.toList ∧ s.withBytes n bytes p = .next (s.respond (p v)))
      ∨ (bytes.length ≠ n ∧ s.withBytes n bytes p = .next (s.raise .contractViolation)) := by
  unfold State.withBytes
  split
  · rename_i v hv
    exact .inl ⟨v, exactly_eq_some.mp hv, rfl⟩
  · rename_i hv
    exact .inr ⟨exactly_eq_none.mp hv, rfl⟩

theorem memRead_frame {s : State} {f : FrameBytes} : memRead s.frame 0 frameLen = .ok f ↔ s.HoldsFrame f := by
  rw [memRead_eq_ok]
  simp only [Nat.zero_add]
  exact ⟨fun h k hk => (h k hk).2, fun h k hk => ⟨hk, h k hk⟩⟩

/-- What RDFRAME answers where `FRAME` holds a frame. -/
theorem execRdframe_holds {s : State} {f : FrameBytes} (hr : s.Ready) (hv : s.frameValid = true)
    (hf : s.HoldsFrame f) : execRdframe s = .next (s.respond { result := .ok, frameOut := some f }) := by
  simp [execRdframe, State.accept_ready hr, hv, memRead_frame.mpr hf]

theorem execRdframe_unwritten {s : State} (hr : s.Ready) (hv : s.frameValid = false) :
    execRdframe s = .next (s.raise .frameUnwritten) := by
  simp [execRdframe, State.accept_ready hr, hv]

/-- One instruction performed in a state that accepts it: what the next state can be. -/
inductive Performed (i : Instr) (s : State) : State → Prop where
  /-- an encode request wrote its frame -/
  | encoded {a c t m : Byte} {v : Value} {mem : Memory} (operands : encodeOperands i = some (a, c, t, m, v))
      (holds : ∀ k (h : k < 9), mem.read k = some (buildFrame a c t m v)[k])
      (others : ∀ k, 9 ≤ k → mem.read k = s.frame.read k) (wf : s.frame.wf → mem.wf) :
      Performed i s (State.respond { s with frame := mem, frameValid := true }
        { result := .ok, frameOut := some (buildFrame a c t m v) })
  /-- RDFRAME delivered a copy -/
  | readBack {f : FrameBytes} (isRead : i = .rdframe) (valid : s.frameValid = true) (holds : s.HoldsFrame f) :
      Performed i s (s.respond { result := .ok, frameOut := some f })
  /-- RDFRAME before any encode -/
  | unwritten (isRead : i = .rdframe) (invalid : s.frameValid = false) : Performed i s (s.raise .frameUnwritten)
  /-- a wrong byte count -/
  | contract (broken : i.contractMet = false) : Performed i s (s.raise .contractViolation)
  /-- DECODE of nine bytes -/
  | decoded {f : FrameBytes} (isDecode : i = .decode f.toList) : Performed i s (s.respond (decodeReply f))
  /-- CKSUM of eight bytes -/
  | summed {b : Vector Byte 8} (isCksum : i = .cksum b.toList) :
      Performed i s (s.respond { result := .ok, byteOut := some (checksum b) })
  /-- PACK32 -/
  | packed {v : Value} (isPack : i = .pack32 v) :
      Performed i s (s.respond { result := .ok, bytesOut := some (pack32 v) })
  /-- UNPACK32 of four bytes -/
  | unpacked {b : Vector Byte 4} (isUnpack : i = .unpack32 b.toList) :
      Performed i s (s.respond { result := .ok, valueOut := some (unpack32 b) })

/-- Everything an instruction can do in a state that accepts it: one of the cases above, or RDFRAME stops at a byte of
`FRAME` that nothing has written. -/
theorem exec_ready_cases {s : State} (hr : s.Ready) (i : Instr) :
    (∃ t, exec i s = .next t ∧ Performed i s t)
      ∨ (i = .rdframe ∧ s.frameValid = true ∧ ∃ a, a < 9 ∧ s.frame.read a = none
          ∧ exec i s = .fault (.frameByteAbsent a)) := by
  by_cases he : (encodeOperands i).isSome
  · obtain ⟨⟨a, c, t, m, v⟩, hops⟩ := Option.isSome_iff_exists.mp he
    obtain ⟨mem, hnext, hholds, hothers, hwf⟩ := s.encodeFrame_next a c t m v
    refine .inl ⟨_, ?_, .encoded hops hholds hothers hwf⟩
    rw [exec_of_encodeOperands hops, State.accept_ready hr, hnext]
  · cases i with
    | decode bs =>
      rcases s.withBytes_eq 9 bs decodeReply with ⟨v, rfl, h⟩ | ⟨hl, h⟩
      · exact .inl ⟨_, by simpa [exec, execDecode, State.accept_ready hr] using h, .decoded rfl⟩
      · exact .inl ⟨_, by simpa [exec, execDecode, State.accept_ready hr] using h,
          .contract (by simp [Instr.contractMet, Instr.bytesNeeded, Instr.byteString, hl])⟩
    | cksum bs =>
      rcases s.withBytes_eq 8 bs fun b => { result := .ok, byteOut := some (checksum b) } with ⟨v, rfl, h⟩ | ⟨hl, h⟩
      · exact .inl ⟨_, by simpa [exec, execCksum, State.accept_ready hr] using h, .summed rfl⟩
      · exact .inl ⟨_, by simpa [exec, execCksum, State.accept_ready hr] using h,
          .contract (by simp [Instr.contractMet, Instr.bytesNeeded, Instr.byteString, hl])⟩
    | unpack32 bs =>
      rcases s.withBytes_eq 4 bs fun b => { result := .ok, valueOut := some (unpack32 b) } with ⟨v, rfl, h⟩ | ⟨hl, h⟩
      · exact .inl ⟨_, by simpa [exec, execUnpack32, State.accept_ready hr] using h, .unpacked rfl⟩
      · exact .inl ⟨_, by simpa [exec, execUnpack32, State.accept_ready hr] using h,
          .contract (by simp [Instr.contractMet, Instr.bytesNeeded, Instr.byteString, hl])⟩
    | pack32 v => exact .inl ⟨_, by simp [exec, execPack32, State.accept_ready hr], .packed rfl⟩
    | rdframe =>
      cases hv : s.frameValid with
      | false => exact .inl ⟨_, execRdframe_unwritten hr hv, .unwritten rfl hv⟩
      | true =>
        cases hm : memRead s.frame 0 frameLen with
        | ok f => exact .inl ⟨_, execRdframe_holds hr hv (memRead_frame.mp hm), .readBack rfl hv (memRead_frame.mp hm)⟩
        | error e =>
          obtain ⟨a, -, h2, h3, rfl⟩ := memRead_eq_error (by simp [frameLen]) hm
          refine .inr ⟨rfl, rfl, a, by simpa [frameLen] using h2, h3, ?_⟩
          simp [exec, execRdframe, State.accept_ready hr, hv, hm]
    | _ => simp [encodeOperands] at he

/-- In a state that does not accept requests every instruction is turned away (R204). -/
theorem exec_faulted {s : State} (h : ¬ s.Ready) (i : Instr) : exec i s = .next s.turnAway := by
  cases i <;>
    simp only [exec, execBuild, execRor, execRol, execMst, execMvpAbs, execMvpRel, execSap, execGap, execStap, execRsap,
      execSgp, execGgp, execStgp, execRsgp, execDecode, execCksum, execPack32, execUnpack32, execRdframe] <;>
    exact State.accept_faulted h _

/-- Everything `exec` can answer. -/
theorem exec_next_cases {i : Instr} {s t : State} (h : exec i s = .next t) :
    (s.Ready ∧ Performed i s t) ∨ (¬ s.Ready ∧ t = s.turnAway) := by
  by_cases hr : s.Ready
  · rcases exec_ready_cases hr i with ⟨t', h', hp⟩ | ⟨-, -, a, -, -, h'⟩
    · rw [h'] at h
      cases h
      exact .inl ⟨hr, hp⟩
    · rw [h'] at h
      cases h
  · rw [exec_faulted hr] at h
    cases h
    exact .inr ⟨hr, rfl⟩

/-- No instruction is refused. -/
theorem exec_never_refuses (i : Instr) (s : State) (r : Refusal) : exec i s ≠ .refused r := by
  by_cases hr : s.Ready
  · rcases exec_ready_cases hr i with ⟨t', h', -⟩ | ⟨-, -, a, -, -, h'⟩ <;> rw [h'] <;> simp
  · rw [exec_faulted hr]
    simp

end Sys2Proof.Machine
end

