-- ==== Sys2Proof/Laws/PerInstr.lean ====
section
/-! SUPPORT. Statements made per instruction: the selector of an encoded instruction. -/

/-- The selector an instruction is encoded with is no reserved one, and the encoded request carries the instruction's
byte string, empty for the operations that use none (R71, R73, R78). -/
def Sys2Proof.Laws.EncodedSelector.Statement (i : Sys2Proof.Instr) : Prop :=
  Sys2Proof.isReservedOpsel (Sys2Proof.encode i).opsel = false ∧ (Sys2Proof.encode i).bytes = i.byteString

namespace Sys2Proof.Laws.EncodedSelector

theorem build (a c t m : Byte) (v : Value) : Statement (.build a c t m v) := ⟨rfl, rfl⟩
theorem ror (a m : Byte) (v : Value) : Statement (.ror a m v) := ⟨rfl, rfl⟩
theorem rol (a m : Byte) (v : Value) : Statement (.rol a m v) := ⟨rfl, rfl⟩
theorem mst (a m : Byte) : Statement (.mst a m) := ⟨rfl, rfl⟩
theorem mvpAbs (a m : Byte) (v : Value) : Statement (.mvpAbs a m v) := ⟨rfl, rfl⟩
theorem mvpRel (a m : Byte) (v : Value) : Statement (.mvpRel a m v) := ⟨rfl, rfl⟩
theorem sap (a p m : Byte) (v : Value) : Statement (.sap a p m v) := ⟨rfl, rfl⟩
theorem gap (a p m : Byte) : Statement (.gap a p m) := ⟨rfl, rfl⟩
theorem stap (a p m : Byte) : Statement (.stap a p m) := ⟨rfl, rfl⟩
theorem rsap (a p m : Byte) : Statement (.rsap a p m) := ⟨rfl, rfl⟩
theorem sgp (a p m : Byte) (v : Value) : Statement (.sgp a p m v) := ⟨rfl, rfl⟩
theorem ggp (a p m : Byte) : Statement (.ggp a p m) := ⟨rfl, rfl⟩
theorem stgp (a p m : Byte) : Statement (.stgp a p m) := ⟨rfl, rfl⟩
theorem rsgp (a p m : Byte) : Statement (.rsgp a p m) := ⟨rfl, rfl⟩
theorem decode (bs : List Byte) : Statement (.decode bs) := ⟨rfl, rfl⟩
theorem cksum (bs : List Byte) : Statement (.cksum bs) := ⟨rfl, rfl⟩
theorem pack32 (v : Value) : Statement (.pack32 v) := ⟨rfl, rfl⟩
theorem unpack32 (bs : List Byte) : Statement (.unpack32 bs) := ⟨rfl, rfl⟩
theorem rdframe : Statement .rdframe := ⟨rfl, rfl⟩

end Sys2Proof.Laws.EncodedSelector
end

