-- ==== Sys2Proof/Laws/Step.lean ====
section
/-! SUPPORT. One step by the offer at the head of the caller's sequence. -/

namespace Sys2Proof.Machine

theorem step_nothing_offered {s : State} (h : s.inputs = []) : step s = .next s.idle := by
  simp [step, State.takeInput_nil h]

theorem step_reset_offered {s : State} {rest : List Input} (h : s.inputs = .reset :: rest) :
    step s = .next { State.reset with inputs := rest } := by
  simp [step, State.takeInput_cons h, State.doReset]

theorem step_request_selected {s : State} {r : Request} {i : Instr} {rest : List Input}
    (h : s.inputs = .request r :: rest) (hd : decode r = .ok i) : step s = exec i { s with inputs := rest } := by
  simp [step, State.takeInput_cons h, hd]

theorem step_request_reserved {s : State} {r : Request} {e : DecodeError} {rest : List Input}
    (h : s.inputs = .request r :: rest) (hd : decode r = .error e) :
    step s = illegalRequest { s with inputs := rest } := by
  simp [step, State.takeInput_cons h, hd]

/-- Everything one step can be. -/
theorem step_next_cases {s t : State} (h : step s = .next t) :
    (s.inputs = [] ∧ t = s.idle)
      ∨ (∃ rest, s.inputs = .reset :: rest ∧ t = { State.reset with inputs := rest })
      ∨ (∃ r i rest, s.inputs = .request r :: rest ∧ decode r = .ok i ∧ exec i { s with inputs := rest } = .next t)
      ∨ (∃ r e rest, s.inputs = .request r :: rest ∧ decode r = .error e
          ∧ illegalRequest { s with inputs := rest } = .next t) := by
  cases hi : s.inputs with
  | nil =>
    rw [step_nothing_offered hi] at h
    cases h
    exact .inl ⟨rfl, rfl⟩
  | cons x rest =>
    cases x with
    | reset =>
      rw [step_reset_offered hi] at h
      cases h
      exact .inr (.inl ⟨rest, rfl, rfl⟩)
    | request r =>
      cases hd : decode r with
      | ok i =>
        rw [step_request_selected hi hd] at h
        exact .inr (.inr (.inl ⟨r, i, rest, rfl, hd, h⟩))
      | error e =>
        rw [step_request_reserved hi hd] at h
        exact .inr (.inr (.inr ⟨r, e, rest, rfl, hd, h⟩))

/-- A run whose first step answers goes on from there. -/
theorem run_next {n : Nat} {s t : State} (h : step s = .next t) :
    Host.Core.run Sys2Proof.core (n + 1) s = Host.Core.run Sys2Proof.core n t := by
  have h' : Sys2Proof.core.step s = .next t := h
  simp only [Host.Core.run]
  rw [h']

end Sys2Proof.Machine
end

