-- ==== Sys2Proof/Tests/Slice0.lean ====
section
/-! SUPPORT. Tests against the spec's worked examples and vectors (95_test_vectors.md), the ill-formed terms the checks refuse, and a witness for the hypotheses of every statement. -/

namespace Sys2Proof.Tests
open Sys2Proof Sys2Proof.Machine

/-! ### Helpers -/

/-- The next state of an instruction; the state itself where it does not answer one. -/
def after (i : Instr) (s : State) : State :=
  match exec i s with
  | .next t => t
  | .fault _ | .refused _ => s

/-- The response an instruction delivers in a state. -/
def answer (i : Instr) (s : State) : Option Response := (after i s).response

/-- The frame an instruction delivers right after reset. -/
def frameOut (i : Instr) : Option FrameBytes := (answer i State.reset).bind Response.frameOut

/-- Right after `BUILD 0, 0, 0, 0, 1` from reset (V-EN-2). -/
def built : State := after (.build 0 0 0 0 1) State.reset

/-- Right after DECODE of 8 bytes from reset: `FAULT = CONTRACT_VIOLATION` (V-DEC-15). -/
def faulted : State := after (.decode [0, 0, 0, 0, 0, 0, 0, 0]) State.reset

/-- The response of V-DEC vectors. -/
def okReply (a b c d : Byte) (v : Int) : Option Response := some (Machine.okReply a b c d (u32 v))

def mismatch : Option Response := some { result := .checksumMismatch }

/-! ### WellFormed: one ill-formed term for each check (R70, R115, V-PK-14) -/

theorem test_wellFormed_accepts_boundaries :
    RawRequest.WellFormed
      { opsel := 255, addr := 255, cmd := 255, type := 255, motor := 255, value := -2147483648, bytes := [0, 255] } = true
    ∧ RawRequest.WellFormed { opsel := 0, value := 2147483647 } = true := by decide

theorem test_wellFormed_refuses_each_field :
    RawRequest.WellFormed { opsel := 256 } = false ∧ RawRequest.WellFormed { opsel := 0, addr := 256 } = false
    ∧ RawRequest.WellFormed { opsel := 0, cmd := -1 } = false ∧ RawRequest.WellFormed { opsel := 0, type := 256 } = false
    ∧ RawRequest.WellFormed { opsel := 0, motor := -1 } = false
    ∧ RawRequest.WellFormed { opsel := 0x12, value := 2147483648 } = false
    ∧ RawRequest.WellFormed { opsel := 0x12, value := -2147483649 } = false
    ∧ RawRequest.WellFormed { opsel := 0x13, bytes := [0, 0, 0, 256] } = false := by decide

theorem test_form_refuses_out_of_width : RawRequest.form { opsel := 0x12, value := 2147483648 } = none := by decide

theorem test_contractMet_refuses_wrong_counts :
    Instr.contractMet (.decode [0]) = false ∧ Instr.contractMet (.cksum [0, 0, 0, 0, 0, 0, 0, 0, 0]) = false
    ∧ Instr.contractMet (.unpack32 [0, 0, 0]) = false ∧ Instr.contractMet (.unpack32 [0, 0, 0, 0]) = true := by decide

/-! ### Decoding: requests written out from 30_encoding.md sections 4 and 6 -/

theorem test_decode_encode_face :
    decode { opsel := 0x00, addr := 1, cmd := 2, type := 3, motor := 4, value := 5 } = .ok (.build 1 2 3 4 5)
    ∧ decode { opsel := 0x01, addr := 1, cmd := 2, type := 3, motor := 4, value := 5 } = .ok (.ror 1 4 5)
    ∧ decode { opsel := 0x02, addr := 1, motor := 4, value := 5 } = .ok (.rol 1 4 5)
    ∧ decode { opsel := 0x03, addr := 1, motor := 4, value := 1234 } = .ok (.mst 1 4)
    ∧ decode { opsel := 0x04, addr := 1, motor := 4, value := 5 } = .ok (.mvpAbs 1 4 5)
    ∧ decode { opsel := 0x05, addr := 1, motor := 4, value := 5 } = .ok (.mvpRel 1 4 5)
    ∧ decode { opsel := 0x06, addr := 1, type := 3, motor := 4, value := 5 } = .ok (.sap 1 3 4 5)
    ∧ decode { opsel := 0x07, addr := 1, type := 3, motor := 4, value := 5 } = .ok (.gap 1 3 4)
    ∧ decode { opsel := 0x08, addr := 1, type := 3, motor := 4 } = .ok (.stap 1 3 4)
    ∧ decode { opsel := 0x09, addr := 1, type := 3, motor := 4 } = .ok (.rsap 1 3 4)
    ∧ decode { opsel := 0x0A, addr := 1, type := 3, motor := 4, value := 5 } = .ok (.sgp 1 3 4 5)
    ∧ decode { opsel := 0x0B, addr := 1, type := 3, motor := 4 } = .ok (.ggp 1 3 4)
    ∧ decode { opsel := 0x0C, addr := 1, type := 3, motor := 4 } = .ok (.stgp 1 3 4)
    ∧ decode { opsel := 0x0D, addr := 1, type := 3, motor := 4 } = .ok (.rsgp 1 3 4) := by decide

theorem test_decode_other_faces :
    decode { opsel := 0x10, bytes := [1, 2] } = .ok (.decode [1, 2])
    ∧ decode { opsel := 0x11, bytes := [1] } = .ok (.cksum [1])
    ∧ decode { opsel := 0x12, value := 7, bytes := [1] } = .ok (.pack32 7)
    ∧ decode { opsel := 0x13, bytes := [1, 2, 3, 4] } = .ok (.unpack32 [1, 2, 3, 4])
    ∧ decode { opsel := 0x14, addr := 9 } = .ok .rdframe := by decide

/-- R71, R73: the boundaries of the reserved selectors. -/
theorem test_decode_reserved :
    decode { opsel := 0x0E } = .error (.reservedOpsel 0x0E) ∧ decode { opsel := 0x0F } = .error (.reservedOpsel 0x0F)
    ∧ decode { opsel := 0x15 } = .error (.reservedOpsel 0x15) ∧ decode { opsel := 0xFF } = .error (.reservedOpsel 0xFF)
    ∧ isReservedOpsel 0x0D = false ∧ isReservedOpsel 0x10 = false ∧ isReservedOpsel 0x14 = false := by decide

theorem test_opselMap_keys_differ : (opselMap.map Prod.fst).Nodup := by decide

theorem test_tableWord :
    decodeTableWord 8 0x10 = some (.decode [0, 0, 0, 0, 0, 0, 0, 0, 0]) ∧ decodeTableWord 8 0x14 = some .rdframe
    ∧ decodeTableWord 8 0x0E = none ∧ decodeTableWord 8 0x100 = none := by decide

/-- The lines of P1 to P4 of 95_test_vectors.md section 3, with their field encodings. -/
theorem test_parse_lines :
    parseLine "ROR 0, 100".toList = some { opsel := 0x01, value := 100 }
    ∧ parseLine "MVP.REL 1, -1000".toList = some { opsel := 0x05, addr := 1, value := 0xFFFFFC18 }
    ∧ parseLine "SAP 1, 4, 0x12345678".toList = some { opsel := 0x06, addr := 1, type := 4, value := 0x12345678 }
    ∧ parseLine "SGP 1, 65, 3, 2".toList = some { opsel := 0x0A, addr := 1, type := 65, motor := 2, value := 3 }
    ∧ parseLine "RDFRAME".toList = some { opsel := 0x14 }
    ∧ parseLine "PACK32 2147483648".toList = none := by decide

/-- P3 step 5, V-CK-8, V-UP-10 and V-DEC-16: byte lines with other counts are lines (log entry 24); an encode line with
an operand too many or too few is none. -/
theorem test_parse_byte_lines :
    parseLine "DECODE 0,0,0,0,0,0,0,0".toList = some { opsel := 0x10, bytes := [0, 0, 0, 0, 0, 0, 0, 0] }
    ∧ parseLine "CKSUM 1, 2".toList = some { opsel := 0x11, bytes := [1, 2] }
    ∧ parseLine "UNPACK32".toList = some { opsel := 0x13 }
    ∧ parseLine "UNPACK32 0xFF,0xFF,0xFC,0x18".toList = some { opsel := 0x13, bytes := [0xFF, 0xFF, 0xFC, 0x18] }
    ∧ parseLine "DECODE 0, 256".toList = none
    ∧ parseLine "MST 1, 2, 3".toList = none ∧ parseLine "ROR 1".toList = none := by decide

/-! ### The functions -/

/-- V-CK-1 to V-CK-7. -/
theorem test_checksum :
    checksum #v[0, 0, 0, 0, 0, 0, 0, 0] = 0 ∧ checksum #v[255, 255, 255, 255, 255, 255, 255, 255] = 0xF8
    ∧ checksum #v[1, 1, 1, 1, 1, 1, 1, 1] = 8 ∧ checksum #v[0x80, 0x80, 0, 0, 0, 0, 0, 0] = 0
    ∧ checksum #v[0xFF, 1, 0, 0, 0, 0, 0, 0] = 0 ∧ checksum #v[0, 1, 0, 1, 0, 0, 0, 0x64] = 0x66
    ∧ checksum #v[2, 1, 0x64, 6, 0, 0, 0x13, 0x88] = 8 := by decide

/-- V-PK-1, 3, 5, 7, 9, 10, 11, 13: the boundaries of `i32` among them. -/
theorem test_pack32 :
    pack32 (u32 0) = #v[0, 0, 0, 0] ∧ pack32 (u32 (-1)) = #v[0xFF, 0xFF, 0xFF, 0xFF]
    ∧ pack32 (u32 (-100)) = #v[0xFF, 0xFF, 0xFF, 0x9C] ∧ pack32 (u32 256) = #v[0, 0, 1, 0]
    ∧ pack32 (u32 2147483647) = #v[0x7F, 0xFF, 0xFF, 0xFF] ∧ pack32 (u32 (-2147483648)) = #v[0x80, 0, 0, 0]
    ∧ pack32 (u32 0x12345678) = #v[0x12, 0x34, 0x56, 0x78] ∧ pack32 (u32 (-129)) = #v[0xFF, 0xFF, 0xFF, 0x7F] := by
  decide

/-- V-UP-2 to V-UP-9: first byte 0x7F and 0x80 are the two sides of the sign rule. -/
theorem test_unpack32 :
    s32 (unpack32 #v[0, 0, 0, 1]) = 1 ∧ s32 (unpack32 #v[0xFF, 0xFF, 0xFF, 0xFF]) = -1
    ∧ s32 (unpack32 #v[0x7F, 0xFF, 0xFF, 0xFF]) = 2147483647 ∧ s32 (unpack32 #v[0x80, 0, 0, 0]) = -2147483648
    ∧ s32 (unpack32 #v[0x80, 0, 0, 1]) = -2147483647 ∧ s32 (unpack32 #v[0xFF, 0xFF, 0xFF, 0x9C]) = -100
    ∧ s32 (unpack32 #v[0, 0, 0, 0x80]) = 128 ∧ s32 (unpack32 #v[0, 0xFF, 0xFF, 0xFF]) = 16777215 := by decide

/-- R61: the word of the frame of V-EN-2 and its fields. -/
theorem test_frameWord : frameWord #v[1, 2, 3, 4, 5, 6, 7, 8, 9] = 0x010203040506070809 := by decide

/-- R43: offset 0 goes first on the line. -/
theorem test_lineBytes : lineBytes #v[1, 2, 3, 4, 5, 6, 7, 8, 9] = [1, 2, 3, 4, 5, 6, 7, 8, 9] := by decide

/-! ### The encode requests (V-EN-1 to V-EN-26); the convenience requests under the recommended WIRE_OP number of R11 -/

theorem test_build_vectors :
    frameOut (.build 0 0 0 0 0) = some #v[0, 0, 0, 0, 0, 0, 0, 0, 0]
    ∧ frameOut (.build 0 0 0 0 (u32 (-1))) = some #v[0, 0, 0, 0, 0xFF, 0xFF, 0xFF, 0xFF, 0xFC]
    ∧ frameOut (.build 255 255 255 255 (u32 2147483647)) = some #v[0xFF, 0xFF, 0xFF, 0xFF, 0x7F, 0xFF, 0xFF, 0xFF, 0x78]
    ∧ frameOut (.build 0 200 99 7 5) = some #v[0, 0xC8, 0x63, 7, 0, 0, 0, 5, 0x37] := by decide

theorem test_build_state :
    built = { frame := [(0, 0), (1, 0), (2, 0), (3, 0), (4, 0), (5, 0), (6, 0), (7, 1), (8, 1)], frameValid := true,
              fault := .noFault, inputs := [],
              response := some { result := .ok, frameOut := some #v[0, 0, 0, 0, 0, 0, 0, 1, 1] } } := by decide

theorem test_ror (h : Config.wireOp .ror = 1) : frameOut (.ror 0 0 100) = some #v[0, 1, 0, 0, 0, 0, 0, 0x64, 0x65] := by
  unfold frameOut answer after exec execRor
  rw [h]
  decide

theorem test_rol (h : Config.wireOp .rol = 2) :
    frameOut (.rol 0 0 (u32 (-100))) = some #v[0, 2, 0, 0, 0xFF, 0xFF, 0xFF, 0x9C, 0x9B] := by
  unfold frameOut answer after exec execRol
  rw [h]
  decide

theorem test_mst (h : Config.wireOp .mst = 3) :
    frameOut (.mst 255 255) = some #v[0xFF, 3, 0, 0xFF, 0, 0, 0, 0, 1] := by
  unfold frameOut answer after exec execMst
  rw [h]
  decide

theorem test_mvpAbs (h : Config.wireOp .mvp = 4) :
    frameOut (.mvpAbs 1 0 51200) = some #v[1, 4, 0, 0, 0, 0, 0xC8, 0, 0xCD] := by
  unfold frameOut answer after exec execMvpAbs
  rw [h]
  decide

theorem test_mvpRel (h : Config.wireOp .mvp = 4) :
    frameOut (.mvpRel 1 0 (u32 (-1000))) = some #v[1, 4, 1, 0, 0xFF, 0xFF, 0xFC, 0x18, 0x18] := by
  unfold frameOut answer after exec execMvpRel
  rw [h]
  decide

theorem test_sap (h : Config.wireOp .sap = 5) :
    frameOut (.sap 1 4 0 0x12345678) = some #v[1, 5, 4, 0, 0x12, 0x34, 0x56, 0x78, 0x1E] := by
  unfold frameOut answer after exec execSap
  rw [h]
  decide

theorem test_gap (h : Config.wireOp .gap = 6) : frameOut (.gap 1 1 0) = some #v[1, 6, 1, 0, 0, 0, 0, 0, 8] := by
  unfold frameOut answer after exec execGap
  rw [h]
  decide

theorem test_stap (h : Config.wireOp .stap = 7) : frameOut (.stap 1 6 0) = some #v[1, 7, 6, 0, 0, 0, 0, 0, 0x0E] := by
  unfold frameOut answer after exec execStap
  rw [h]
  decide

theorem test_rsap (h : Config.wireOp .rsap = 8) : frameOut (.rsap 1 6 0) = some #v[1, 8, 6, 0, 0, 0, 0, 0, 0x0F] := by
  unfold frameOut answer after exec execRsap
  rw [h]
  decide

theorem test_sgp (h : Config.wireOp .sgp = 9) :
    frameOut (.sgp 1 65 2 3) = some #v[1, 9, 0x41, 2, 0, 0, 0, 3, 0x50] := by
  unfold frameOut answer after exec execSgp
  rw [h]
  decide

theorem test_ggp (h : Config.wireOp .ggp = 10) :
    frameOut (.ggp 1 65 2) = some #v[1, 10, 0x41, 2, 0, 0, 0, 0, 0x4E] := by
  unfold frameOut answer after exec execGgp
  rw [h]
  decide

theorem test_stgp (h : Config.wireOp .stgp = 11) : frameOut (.stgp 0 0 0) = some #v[0, 11, 0, 0, 0, 0, 0, 0, 11] := by
  unfold frameOut answer after exec execStgp
  rw [h]
  decide

theorem test_rsgp (h : Config.wireOp .rsgp = 12) : frameOut (.rsgp 0 0 0) = some #v[0, 12, 0, 0, 0, 0, 0, 0, 12] := by
  unfold frameOut answer after exec execRsgp
  rw [h]
  decide

/-- V-EN-25: the frame of the last encode; V-EN-24: before any encode. -/
theorem test_rdframe :
    answer .rdframe built = some { result := .ok, frameOut := some #v[0, 0, 0, 0, 0, 0, 0, 1, 1] }
    ∧ (after .rdframe State.reset).fault = .frameUnwritten ∧ answer .rdframe State.reset = none := by decide

/-! ### DECODE, CKSUM, PACK32, UNPACK32 -/

/-- V-DEC-1, 4, 6, 7, 9, 10, 14. -/
theorem test_decode_ok :
    answer (.decode [0, 1, 0, 1, 0, 0, 0, 0x64, 0x66]) State.reset = okReply 0 1 0 1 100
    ∧ answer (.decode [0, 0, 0, 0, 0, 0, 0, 0, 0]) State.reset = okReply 0 0 0 0 0
    ∧ answer (.decode [2, 1, 0x64, 6, 0, 0, 0x13, 0x88, 8]) State.reset = okReply 2 1 100 6 5000
    ∧ answer (.decode [2, 1, 0x64, 4, 0xFF, 0xFF, 0xFC, 0x18, 0x7D]) State.reset = okReply 2 1 100 4 (-1000)
    ∧ answer (.decode [0xFF, 0xFF, 0xFF, 0xFF, 0xFF, 0xFF, 0xFF, 0xFF, 0xF8]) State.reset = okReply 255 255 255 255 (-1)
    ∧ answer (.decode [2, 1, 1, 6, 0x80, 0, 0, 0, 0x8A]) State.reset = okReply 2 1 1 6 (-2147483648)
    ∧ answer (.decode [0x82, 0x81, 0x64, 6, 0, 0, 0x13, 0x88, 8]) State.reset = okReply 130 129 100 6 5000 := by decide

/-- V-DEC-2, 5, 11, 12, 13 (mismatch), V-DEC-15 and 16 (contract violation). -/
theorem test_decode_not_ok :
    answer (.decode [0, 1, 0, 1, 0, 0, 0, 0x64, 0x67]) State.reset = mismatch
    ∧ answer (.decode [0, 0, 0, 0, 0, 0, 0, 0, 1]) State.reset = mismatch
    ∧ answer (.decode [0, 1, 0, 0, 0, 0, 0, 0x65, 0x65]) State.reset = mismatch
    ∧ answer (.decode [0x80, 1, 0, 0, 0, 0, 0, 0x64, 0x65]) State.reset = mismatch
    ∧ answer (.decode [0, 1, 0, 0, 0, 0, 0, 0x64, 0x64]) State.reset = mismatch
    ∧ faulted.fault = .contractViolation ∧ faulted.response = none
    ∧ (after (.decode [0, 0, 0, 0, 0, 0, 0, 0, 0, 0]) State.reset).fault = .contractViolation := by decide

/-- V-CK-2 and V-CK-8. -/
theorem test_cksum :
    answer (.cksum [255, 255, 255, 255, 255, 255, 255, 255]) State.reset = some { result := .ok, byteOut := some 0xF8 }
    ∧ (after (.cksum [0, 0, 0, 0, 0, 0, 0]) State.reset).fault = .contractViolation
    ∧ (after (.cksum [0, 0, 0, 0, 0, 0, 0, 0, 0]) State.reset).fault = .contractViolation := by decide

/-- V-PK-12. -/
theorem test_pack32_request :
    answer (.pack32 (u32 (-1000))) built = some { result := .ok, bytesOut := some #v[0xFF, 0xFF, 0xFC, 0x18] }
    ∧ (after (.pack32 (u32 (-1000))) built).frame = built.frame := by decide

/-- V-UP-7 and V-UP-10. -/
theorem test_unpack32_request :
    answer (.unpack32 [0xFF, 0xFF, 0xFF, 0x9C]) built = some { result := .ok, valueOut := some (u32 (-100)) }
    ∧ (after (.unpack32 [0, 0, 0]) built).fault = .contractViolation
    ∧ (after (.unpack32 [0, 0, 0, 0, 0]) built).fault = .contractViolation := by decide

/-! ### Steps -/

/-- The next state of a step; the state itself where it does not answer one. -/
def stepped (s : State) : State :=
  match step s with
  | .next t => t
  | .fault _ | .refused _ => s

/-- V-F-1 to V-F-3: reserved selectors, the last with a byte string of 3. -/
theorem test_step_reserved :
    (stepped (built.offer { opsel := 0x0E })).fault = .illegalRequest
    ∧ (stepped (built.offer { opsel := 0x0E })).frame = built.frame
    ∧ (stepped (built.offer { opsel := 0xFF })).fault = .illegalRequest
    ∧ (stepped (built.offer { opsel := 0x0F, bytes := [0, 0, 0] })).fault = .illegalRequest := by decide

/-- V-F-4: nothing is accepted while FAULT is set. -/
theorem test_step_after_fault : stepped (faulted.offer { opsel := 0x09, addr := 1, type := 6 }) = faulted := by decide

/-- V-F-5: reset clears FAULT. -/
theorem test_step_reset : stepped { faulted with inputs := [.reset] } = State.reset := by decide

theorem test_step_idle : step State.reset = .next State.reset := by rfl

/-- The first step after reset runs the table's word, for a row of each format. -/
theorem test_withFetchWord :
    (stepped (State.reset.withFetchWord 8 0x00)).frameValid = true
    ∧ (stepped (State.reset.withFetchWord 8 0x10)).response = okReply 0 0 0 0 0
    ∧ (stepped (State.reset.withFetchWord 8 0x12)).response = some { result := .ok, bytesOut := some #v[0, 0, 0, 0] }
    ∧ (stepped (State.reset.withFetchWord 8 0x14)).fault = .frameUnwritten := by decide

/-! ### Witnesses: the hypotheses of each statement, met together -/

theorem witness_ready : State.reset.Ready ∧ built.Ready := by decide

/-- NothingAcceptedAfterFault. -/
theorem witness_notReady : ¬ faulted.Ready := by decide

/-- ReservedSelectorHasNoOperation, both clauses at their boundaries; EncodeRequestsNeverFault and
ReservedSelectorRaisesIllegalRequest. -/
theorem witness_reserved :
    ((0x0E : Byte).toNat = 0x0E ∧ (0x0F : Byte).toNat = 0x0F ∧ 0x15 ≤ (0x15 : Byte).toNat ∧ 0x15 ≤ (0xFF : Byte).toNat)
    ∧ (¬ ((0x0D : Byte).toNat = 0x0E ∨ (0x0D : Byte).toNat = 0x0F ∨ 0x15 ≤ (0x0D : Byte).toNat))
    ∧ (¬ ((0x14 : Byte).toNat = 0x0E ∨ (0x14 : Byte).toNat = 0x0F ∨ 0x15 ≤ (0x14 : Byte).toNat))
    ∧ isReservedOpsel 0x0E = true ∧ isReservedOpsel 0xFF = true ∧ isEncode (.rsgp 0 0 0) = true ∧ built.Ready := by
  decide

/-- DecodeEncodeAgree, second half: a request with an unused field set has an operation. -/
theorem witness_decodes : decode { opsel := 0x03, addr := 1, motor := 2, value := 1234 } = .ok (.mst 1 2) := by decide

/-- OnlyFittingRecordsAreRequests: one that fits, at the ends of every range. -/
theorem witness_formed :
    (RawRequest.form { opsel := 0, addr := 255, value := -2147483648, bytes := [255] }).isSome = true
    ∧ (RawRequest.form { opsel := 255, cmd := 255, value := 2147483647 }).isSome = true := by decide

/-- PackIsBigEndian and PackUnpackInverse: both ends of `i32`. -/
theorem witness_i32 : (-2147483648 ≤ (-2147483648 : Int) ∧ (-2147483648 : Int) ≤ 2147483647)
    ∧ (-2147483648 ≤ (2147483647 : Int) ∧ (2147483647 : Int) ≤ 2147483647) := by decide

/-- UnpackReadsSignedBigEndian, DecodeChecksThenExtracts, PackerRequestsAnswer: the two sides of the sign rule. -/
theorem witness_sign : (0x7F : Byte).toNat < 128 ∧ 128 ≤ (0x80 : Byte).toNat := by decide

/-- ChecksumIsSumModulo256: a permutation of eight bytes. -/
theorem witness_perm :
    (#v[8, 7, 6, 5, 4, 3, 2, 1] : Vector Byte 8).toList.Perm (#v[1, 2, 3, 4, 5, 6, 7, 8] : Vector Byte 8).toList := by
  decide

/-- FrameWordFields: the first and the last byte. -/
theorem witness_offsets : 0 < 9 ∧ 8 < 9 := by decide

/-- RdframeReadsFrameBack: a state that holds a frame, and one that holds none. -/
theorem witness_rdframe :
    built.Ready ∧ built.frameValid = true ∧ built.HoldsFrame #v[0, 0, 0, 0, 0, 0, 0, 1, 1]
    ∧ State.reset.frameValid = false := by
  refine ⟨by decide, by decide, ?_, by decide⟩
  unfold State.HoldsFrame
  decide

/-- DecodeChecksThenExtracts, SingleBitErrorIsDetected, CompensatingErrorsPass: frames that match, on both sides of the
sign, one that does not, and byte counts just off. -/
theorem witness_sumMatches :
    SumMatches #v[0, 1, 0, 1, 0, 0, 0, 100, 102] ∧ SumMatches #v[0, 0, 0, 0, 0x7F, 0, 0, 0, 0x7F]
    ∧ SumMatches #v[0, 0, 0, 0, 0x80, 0, 0, 0, 0x80] ∧ ¬ SumMatches #v[0, 1, 0, 1, 0, 0, 0, 100, 103]
    ∧ ([0, 0, 0, 0, 0, 0, 0, 0] : List Byte).length ≠ 9 ∧ ([0, 0, 0, 0, 0, 0, 0] : List Byte).length ≠ 8
    ∧ ([0, 0, 0] : List Byte).length ≠ 4 := by
  unfold SumMatches
  decide

/-- AllZeroReplyIsLegitimate. -/
theorem witness_nonzero : built.Ready ∧ (1 : Byte) ≠ 0 ∧ (0xFF : Byte) ≠ 0 := by decide

/-- SingleBitErrorIsDetected: the first bit of the first byte, and the last bit of the last. -/
theorem witness_single_bit :
    (0 < 9 ∧ 0 < 8) ∧ (8 < 9 ∧ 7 < 8) ∧ SumMatches #v[2, 1, 0x64, 6, 0, 0, 0x13, 0x88, 8] ∧ built.Ready := by
  unfold SumMatches
  decide

/-- CompensatingErrorsPass: V-DEC-14's corruption of V-DEC-6, and one byte raised, another lowered. -/
theorem witness_compensating :
    (#v[0x82, 0x81, 0x64, 6, 0, 0, 0x13, 0x88, 8] : FrameBytes)
      = ((#v[2, 1, 0x64, 6, 0, 0, 0x13, 0x88, 8] : FrameBytes).set 0 (2 ^^^ BitVec.twoPow 8 7)).set 1
          (1 ^^^ BitVec.twoPow 8 7)
    ∧ (#v[5, 1, 0x64, 6, 0, 0, 0x13, 0x85, 8] : FrameBytes)
      = ((#v[2, 1, 0x64, 6, 0, 0, 0x13, 0x88, 8] : FrameBytes).set 0 (2 + 3)).set 7 (0x88 - 3)
    ∧ SumMatches #v[2, 1, 0x64, 6, 0, 0, 0x13, 0x88, 8] ∧ (0 ≠ 1 ∧ 0 ≠ 7) ∧ (0 < 8 ∧ 1 < 8 ∧ 7 < 8) ∧ built.Ready := by
  unfold SumMatches
  decide

/-- MismatchOnlyFromDecode: an answered mismatch, and a request that can be offered next. -/
theorem witness_mismatch :
    exec (.decode [0, 0, 0, 0, 0, 0, 0, 0, 1]) built = .next (after (.decode [0, 0, 0, 0, 0, 0, 0, 0, 1]) built)
    ∧ answer (.decode [0, 0, 0, 0, 0, 0, 0, 0, 1]) built = mismatch
    ∧ decode { opsel := 0x14 } = .ok .rdframe := ⟨rfl, by decide, by decide⟩

/-- EncodeRequestsFrame, accepted and turned away; ReadingRequestsFrame; FaultsAreExactlyTheTable;
ResponseFieldsAreThoseOfTheOperation; RepeatedRequestChangesNothing. -/
theorem witness_frames :
    (isEncode (.build 0 0 0 0 1) = true ∧ exec (.build 0 0 0 0 1) State.reset = .next built)
    ∧ exec (.build 0 0 0 0 1) faulted = .next (after (.build 0 0 0 0 1) faulted)
    ∧ (isEncode .rdframe = false ∧ exec .rdframe built = .next (after .rdframe built)) ∧ built.Ready
    ∧ (after .rdframe built).Ready := by
  exact ⟨⟨rfl, rfl⟩, rfl, ⟨rfl, rfl⟩, by decide, by decide⟩

/-- FaultsAreExactlyTheTable: each fault of the table is recorded somewhere, and none too. -/
theorem witness_faults :
    (after (.decode [0]) State.reset).fault = .contractViolation ∧ (after (.cksum []) State.reset).fault = .contractViolation
    ∧ (after (.unpack32 [0, 0, 0]) State.reset).fault = .contractViolation
    ∧ (after .rdframe State.reset).fault = .frameUnwritten ∧ (after .rdframe built).fault = .noFault := by decide

/-- OutcomeIndependentOfFormerFrame: two states that accept requests and hold different frames. -/
theorem witness_two_states :
    Instr.mst 0 0 ≠ .rdframe ∧ State.reset.Ready ∧ built.Ready ∧ State.reset.frame ≠ built.frame := by decide

/-- UnusedFieldsHaveNoEffect: two different requests with the same used fields, V-EN-12, and two reserved ones, V-F-3. -/
theorem witness_unused :
    clearedRequest { opsel := 0x03, value := 1234 } = clearedRequest { opsel := 0x03 }
    ∧ ({ opsel := 0x03, value := 1234 } : Request) ≠ { opsel := 0x03 }
    ∧ clearedRequest { opsel := 0x0F, bytes := [0, 0, 0] } = clearedRequest { opsel := 0x0F } := by decide

/-- StepRunsDecodedRequest, ResetAndIdleSteps. -/
theorem witness_inputs :
    (built.offer { opsel := 0x14 }).inputs = [.request { opsel := 0x14 }] ∧ decode { opsel := 0x14 } = .ok .rdframe
    ∧ ({ faulted with inputs := [.reset] } : State).inputs = [.reset] ∧ built.inputs = [] := by decide

/-- StepKeepsBlockInvariant, FramesAreCheckedBothWays, StepsComplete: a state with a frame that meets the invariant. -/
theorem witness_invariant :
    built.Inv ∧ (∃ t, step built = .next t)
    ∧ exec .rdframe built = .next (after .rdframe built)
    ∧ exec (.decode [0, 0, 0, 0, 0, 0, 0, 0, 0]) built = .next (after (.decode [0, 0, 0, 0, 0, 0, 0, 0, 0]) built)
    ∧ (answer .rdframe built).isSome = true
    ∧ (answer (.decode [0, 0, 0, 0, 0, 0, 0, 0, 0]) built).isSome = true := by
  have holds : built.HoldsFrame #v[0, 0, 0, 0, 0, 0, 0, 1, 1] := witness_rdframe.2.2.1
  refine ⟨⟨by decide, fun a ha => ?_, by decide, fun _ => ⟨_, holds, by decide⟩, ?_, ?_, by decide, by decide⟩,
    ⟨_, rfl⟩, rfl, rfl, by decide, by decide⟩
  · rw [test_build_state]
    simp only [Memory.read_cons, Memory.read_nil]
    repeat rw [if_neg (by omega)]
  · intro r f hr hf
    rw [test_build_state] at hr
    cases hr
    cases hf
    exact holds
  · intro r hr hm
    rw [test_build_state] at hr
    cases hr
    cases hm

/-- StepsComplete, the case a run does not reach: FRAME_VALID set and a byte of FRAME without a value. -/
theorem witness_absent_byte :
    step (({ State.reset with frameValid := true } : State).offer { opsel := 0x14 }) = .fault (.frameByteAbsent 0) := by
  rfl

/-- FaultStaysUntilReset: two offers, neither a reset, in a state with FAULT set. -/
theorem witness_fault_run :
    ¬ ({ faulted with inputs := [.request { opsel := 0x00 }, .request { opsel := 0xFF }] } : State).Ready
    ∧ ∀ x ∈ ([.request { opsel := 0x00 }, .request { opsel := 0xFF }] : List Input).take 2, x ≠ .reset := by decide

/-- The offers of the next witness: a read, then a reserved selector. -/
def readThenReserved : List Input := [.request { opsel := 0x14 }, .request { opsel := 0x0E }]

/-- FrameKeptUntilNextEncode: an encode request followed by offers that are none. -/
theorem witness_frame_run :
    encodeOperands (.build 0 0 0 0 1) = some (0, 0, 0, 0, 1)
    ∧ ({ State.reset with inputs := readThenReserved } : State).Ready
    ∧ exec (.build 0 0 0 0 1) { State.reset with inputs := readThenReserved }
        = .next { built with inputs := readThenReserved }
    ∧ ∀ x ∈ readThenReserved.take 2, x.NoEncode := by
  refine ⟨rfl, rfl, rfl, fun x hx => ?_⟩
  simp only [readThenReserved, List.take_succ_cons, List.take_zero, List.mem_cons, List.not_mem_nil, or_false] at hx
  rcases hx with rfl | rfl <;> intro i h <;> cases h
  rfl

/-- LaterEncodeReplacesFrame: two encode requests and a read, offered in a row. -/
theorem witness_later_encode :
    isEncode (.build 0 0 0 0 1) = true ∧ encodeOperands (.build 1 2 3 4 5) = some (1, 2, 3, 4, 5)
    ∧ ({ State.reset with inputs := [.request (encode (.build 0 0 0 0 1)), .request (encode (.build 1 2 3 4 5)),
        .request { opsel := 0x14 }] } : State).Ready := ⟨rfl, rfl, rfl⟩

end Sys2Proof.Tests
end

section
/-! SUPPORT. Frames on integers and what DECODE answers; the statements about the decode example and about checked frames. -/

namespace Sys2Proof.Machine

/-! ### Frames -/

/-- The decoder's comparison on bytes is the sum modulo 256 on integers (R64, R161). -/
theorem sumMatches_iff (f : FrameBytes) : SumMatches f ↔ checksumOk f = true := by
  rw [checksumOk_iff, ← BitVec.toNat_inj, eq_comm]
  simp only [SumMatches, BitVec.toNat_add, Nat.mod_add_mod]

/-- Storage holds at most one frame. -/
theorem State.HoldsFrame.unique {s : State} {f g : FrameBytes} (hf : s.HoldsFrame f) (hg : s.HoldsFrame g) :
    f = g := by
  ext1 k hk
  exact Option.some.inj ((hf k hk).symm.trans (hg k hk))

/-- Under the invariant a valid `FRAME` holds a frame with its own checksum, whatever frame it is found to hold. -/
theorem State.Inv.sumMatches_of_holds {s : State} {f : FrameBytes} (hinv : s.Inv) (hv : s.frameValid = true)
    (hf : s.HoldsFrame f) : SumMatches f := by
  obtain ⟨g, hg, hok⟩ := hinv.written hv
  rw [sumMatches_iff, hf.unique hg]
  exact hok

/-! ### DECODE -/

theorem decodeReply_of_sumMatches {f : FrameBytes} (h : SumMatches f) :
    decodeReply f = { result := .ok, reply := some (replyOf f) } :=
  if_pos ((sumMatches_iff f).mp h)

theorem decodeReply_of_not_sumMatches {f : FrameBytes} (h : ¬ SumMatches f) :
    decodeReply f = { result := .checksumMismatch } :=
  if_neg (mt (sumMatches_iff f).mpr h)

/-- No frame leaves through DECODE. -/
@[simp] theorem decodeReply_frameOut (f : FrameBytes) : (decodeReply f).frameOut = none := by
  unfold decodeReply
  split <;> rfl

/-- A reply comes only out of nine bytes that match their sum (R162). -/
theorem sumMatches_of_decodeReply_reply {f : FrameBytes} {p : ReplyFrame} (h : (decodeReply f).reply = some p) :
    SumMatches f := by
  by_contra hn
  rw [decodeReply_of_not_sumMatches hn] at h
  cases h

/-- Delivering a response leaves the block. -/
theorem State.sameBlock_respond (s : State) (r : Response) : s.SameBlock (s.respond r) := ⟨fun _ => rfl, rfl, rfl⟩

/-- DECODE of nine bytes, in every state that accepts it, answers `decodeReply` of them. -/
theorem answers_decode {s : State} (hr : s.Ready) (buf : FrameBytes) :
    Answers (.decode buf.toList) s (decodeReply buf) := by
  refine ⟨s.respond (decodeReply buf), ?_, s.sameBlock_respond _, rfl, rfl⟩
  simp [exec, execDecode, State.accept_ready hr, State.withBytes]

/-! ### What a performed instruction delivers -/

/-- A delivered frame was just built or read back: either way it matches its sum and is the one `FRAME` holds. -/
theorem Performed.frame_checked {i : Instr} {s t : State} {r : Response} {f : FrameBytes} (hp : Performed i s t)
    (hinv : s.Inv) (ht : t.response = some r) (hf : r.frameOut = some f) : SumMatches f ∧ t.HoldsFrame f := by
  cases hp with
  | encoded _ holds _ _ =>
    cases ht
    cases hf
    exact ⟨(sumMatches_iff _).mpr (checksumOk_buildFrame ..), holds⟩
  | readBack _ valid holds =>
    cases ht
    cases hf
    exact ⟨hinv.sumMatches_of_holds valid holds, holds⟩
  | decoded _ =>
    cases ht
    simp at hf
  | unwritten _ _ | contract _ => cases ht
  | summed _ | packed _ | unpacked _ =>
    cases ht
    cases hf

/-- A delivered reply was extracted by DECODE from nine bytes that match their sum. -/
theorem Performed.reply_checked {i : Instr} {s t : State} {r : Response} {p : ReplyFrame} (hp : Performed i s t)
    (ht : t.response = some r) (hrep : r.reply = some p) :
    ∃ buf : FrameBytes, i = .decode buf.toList ∧ SumMatches buf := by
  cases hp with
  | decoded isDecode =>
    cases ht
    exact ⟨_, isDecode, sumMatches_of_decodeReply_reply hrep⟩
  | unwritten _ _ | contract _ => cases ht
  | encoded _ _ _ _ | readBack _ _ _ | summed _ | packed _ | unpacked _ =>
    cases ht
    cases hrep

/-! ### The statements -/

/-- Settles O44: an instruction that delivers a response was accepted, and each case of `Performed` that delivers a
frame or a reply rests on a checked frame. -/
theorem framesAreCheckedBothWays : Obligations.FramesAreCheckedBothWays := by
  intro i s t r hinv hexec hresp
  rcases exec_next_cases hexec with ⟨-, hp⟩ | ⟨-, rfl⟩
  · exact ⟨fun f hf => hp.frame_checked hinv hresp hf, fun p hrep => hp.reply_checked hresp hrep⟩
  · cases hresp

/-- Settles O23: the worked reply is one case of `answers_decode`, its byte 8 being the sum 102. -/
theorem sourceExampleDecodes : Obligations.SourceExampleDecodes := by
  have hsum : SumMatches #v[0, 1, 0, 1, 0, 0, 0, 100, 102] := by
    unfold SumMatches
    decide
  have hans := answers_decode (s := State.reset) rfl #v[0, 1, 0, 1, 0, 0, 0, 100, 102]
  rw [decodeReply_of_sumMatches hsum] at hans
  exact ⟨hans, by decide⟩

end Sys2Proof.Machine
end

section
/-! SUPPORT. The value packer on integers: the bytes of a pattern and the signed value of a pattern. -/

namespace Sys2Proof.Machine

/-! ### Patterns -/

/-- The pattern of a value is its residue modulo 2^32 (R15). -/
theorem toNat_u32 (v : Int) : ((u32 v).toNat : Int) = v % 4294967296 := by
  have hlt : (v % 4294967296).toNat < 2 ^ 32 := by omega
  rw [u32, BitVec.toNat_ofNat, Nat.mod_eq_of_lt hlt]
  omega

/-- The sign rule of R15 as a bound on the pattern: bit 31 is set exactly from 2^31 on. -/
theorem s32_eq_ite_toNat (u : Value) :
    s32 u = if u.toNat < 2147483648 then (u.toNat : Int) else u.toNat - 4294967296 := by
  rw [s32_eq_toInt, BitVec.toInt_eq_toNat_cond]
  split <;> split <;> omega

/-! ### Packed bytes -/

/-- Byte `k` of a packed pattern holds its bits `31 - 8 * k` to `24 - 8 * k` (R110). -/
theorem toNat_pack32 (u : Value) (k : Nat) (hk : k < 4) :
    (pack32 u)[k].toNat = u.toNat / 2 ^ (24 - 8 * k) % 256 := by
  match k, hk with
  | 0, _ | 1, _ | 2, _ | 3, _ => simp [pack32, Nat.shiftRight_eq_div_pow]

/-- Byte `k` of a packed value, on integers. -/
theorem toNat_pack32_u32 (v : Int) (k : Nat) (hk : k < 4) :
    ((pack32 (u32 v))[k].toNat : Int) = v % 4294967296 / 2 ^ (24 - 8 * k) % 256 := by
  rw [toNat_pack32, ← toNat_u32]
  norm_cast

/-! ### The statements -/

/-- Settles O8: the instances of `toNat_pack32_u32`; byte 0 is the whole quotient, a pattern being below 2^32. The
bounds on `v` are not needed, `u32` reducing every integer. -/
theorem packIsBigEndian : Obligations.PackIsBigEndian := by
  intro v _ _
  have h0 := toNat_pack32_u32 v 0 (by decide)
  have h3 := toNat_pack32_u32 v 3 (by decide)
  exact ⟨toNat_u32 v, by omega, toNat_pack32_u32 v 1 (by decide), toNat_pack32_u32 v 2 (by decide), by omega⟩

/-- Settles O9: the pattern is the big-endian sum of the bytes, and it is below 2^31 exactly when `b[0]` is below
128. -/
theorem unpackReadsSignedBigEndian : Obligations.UnpackReadsSignedBigEndian := by
  intro b
  have hpat := toNat_unpack32 b
  have h1 := b[1].isLt
  have h2 := b[2].isLt
  have h3 := b[3].isLt
  rw [s32_eq_ite_toNat]
  constructor
  · intro hpos
    rw [if_pos (by omega)]
    omega
  · intro hneg
    rw [if_neg (by omega)]
    omega

end Sys2Proof.Machine
end

section
/-! SUPPORT. The encode requests: the request a line of text forms, the operation a selector names, and the frame that is written; the statements about BUILD, the motion requests, SAP and GAP, and about faults of the encode face. -/

namespace Sys2Proof.Machine

/-! ### Forming a request back from its own integers -/

theorem fitsU8_byteInt (b : Byte) : fitsU8 (byteInt b) = true := by
  have hle : (b.toNat : Int) ≤ 255 := by
    have hlt := b.isLt
    omega
  simpa [fitsU8, byteInt] using hle

theorem fitsI32_s32 (v : Value) : fitsI32 (s32 v) = true := by
  have hlt := v.isLt
  rw [s32_eq_ite_toNat]
  simp only [fitsI32, Bool.and_eq_true, decide_eq_true_eq]
  split <;> omega

theorem ofInt_byteInt (b : Byte) : BitVec.ofInt 8 (byteInt b) = b := by
  simp [byteInt]

theorem ofInt_s32 (v : Value) : BitVec.ofInt 32 (s32 v) = v := by
  rw [s32_eq_toInt, BitVec.ofInt_toInt]

/-- The integers a caller writes for a request. -/
def rawOf (r : Request) : RawRequest :=
  { opsel := byteInt r.opsel, addr := byteInt r.addr, cmd := byteInt r.cmd, type := byteInt r.type,
    motor := byteInt r.motor, value := s32 r.value, bytes := r.bytes.map byteInt }

/-- The integers of a request fit their fields, and form that request again (R70, R115). -/
theorem form_rawOf (r : Request) : (rawOf r).form = some r := by
  have hfits : (rawOf r).WellFormed = true := by
    simp [RawRequest.WellFormed, rawOf, fitsU8_byteInt, fitsI32_s32]
  have hbytes : (r.bytes.map byteInt).map (BitVec.ofInt 8) = r.bytes := by
    simp [Function.comp_def, ofInt_byteInt]
  rw [RawRequest.form, if_pos hfits]
  simp only [rawOf, ofInt_byteInt, ofInt_s32, hbytes]

theorem s32_zero : s32 0 = 0 := rfl

/-- A line spells the instruction whose integers its row of R78 puts into the fields. The value stands apart, since an
operation that draws none has the integer 0 there. -/
theorem spells_of_fill {name : String} {xs : List Int} {i : Instr} {form : LineForm} {n : Int}
    (hrow : lineForms.find? (fun form => form.name == name) = some form) (hvalue : s32 (encode i).value = n)
    (hfill : form.fill xs = some { rawOf (encode i) with value := n }) : Spells name xs i := by
  subst hvalue
  have hform : form.fill xs = some (rawOf (encode i)) := hfill
  simp [Spells, assemble, hrow, hform, form_rawOf]

/-! ### Selectors -/

/-- A row of the OPSEL map is what its selector decodes to, whatever the fields hold (R71, R74). -/
theorem selects_of_lookup {opsel : Byte} {op : Request → Instr} (h : opselMap.lookup opsel = some op) :
    Selects opsel op := by
  rintro r rfl
  simp [decode, h]

/-- No row of the OPSEL map has a reserved selector (R71). -/
theorem isReservedOpsel_of_mem_opselMap : ∀ row ∈ opselMap, isReservedOpsel row.1 = false := by decide

/-- A reserved selector is rejected by name (R73). -/
theorem decode_reserved {r : Request} (h : isReservedOpsel r.opsel = true) :
    decode r = .error (.reservedOpsel r.opsel) := by
  have hnone : opselMap.lookup r.opsel = none := by
    refine List.lookup_eq_none_iff.mpr fun row hrow => ?_
    have hfree := isReservedOpsel_of_mem_opselMap row hrow
    rw [bne_iff_ne]
    intro heq
    rw [heq, hfree] at h
    cases h
  simp [decode, hnone]

/-- An accepted offer with a reserved selector does nothing but record `ILLEGAL_REQUEST` (R73). -/
theorem step_offer_reserved {r : Request} {s : State} (h : isReservedOpsel r.opsel = true) (hr : s.Ready) :
    step (s.offer r) = .next (s.raise .illegalRequest) := by
  rw [step_request_reserved (s.offer_inputs r) (decode_reserved h)]
  exact State.accept_ready hr _

/-! ### The frame written -/

/-- The frame the encoder builds has the layout of its operands: `pack32` on integers and its own checksum. -/
theorem commandLayout_buildFrame (a c t m : Byte) (v : Value) : CommandLayout (buildFrame a c t m v) a c t m v where
  address := rfl
  opcode := rfl
  typeBank := rfl
  motorBank := rfl
  value4 := by
    have hlt := v.isLt
    have hbyte := toNat_pack32 v 0 (by decide)
    change (pack32 v)[0].toNat = _
    omega
  value5 := toNat_pack32 v 1 (by decide)
  value6 := toNat_pack32 v 2 (by decide)
  value7 := (toNat_pack32 v 3 (by decide)).trans (by simp)
  check := (sumMatches_iff _).mpr (checksumOk_buildFrame a c t m v)

/-- An encode request writes the frame of the operands its rule fixes (R126). -/
theorem writesFrame_of_encodeOperands {i : Instr} {a c t m : Byte} {v : Value}
    (h : encodeOperands i = some (a, c, t, m, v)) : WritesFrame i (buildFrame a c t m v) := by
  intro s hr
  obtain ⟨mem, hnext, hholds, hothers, -⟩ := s.encodeFrame_next a c t m v
  have hexec := (exec_of_encodeOperands h s).trans ((State.accept_ready hr _).trans hnext)
  exact ⟨_, hexec, hholds, hothers, rfl, rfl, rfl, rfl⟩

theorem performsEncode_of_encodeOperands {i : Instr} {a c t m : Byte} {v : Value}
    (h : encodeOperands i = some (a, c, t, m, v)) : PerformsEncode i a c t m v :=
  ⟨_, commandLayout_buildFrame a c t m v, writesFrame_of_encodeOperands h⟩

/-! ### The statements -/

/-- Settles O12: the rows of BUILD in the OPSEL map, in the table of lines and among the encode operands. -/
theorem buildWritesCommandFrame : Obligations.BuildWritesCommandFrame :=
  ⟨selects_of_lookup rfl, fun _ _ _ _ _ => ⟨spells_of_fill rfl rfl rfl, performsEncode_of_encodeOperands rfl⟩⟩

/-- Settles O13: the rows of ROR and ROL; an omitted motor leaves its field 0. -/
theorem rotateRequestsWriteFrames : Obligations.RotateRequestsWriteFrames :=
  ⟨selects_of_lookup rfl, selects_of_lookup rfl, fun _ _ _ =>
    ⟨spells_of_fill rfl rfl rfl, spells_of_fill rfl rfl rfl,
      spells_of_fill rfl rfl rfl, spells_of_fill rfl rfl rfl,
      performsEncode_of_encodeOperands rfl, performsEncode_of_encodeOperands rfl⟩⟩

/-- Settles O14: the row of MST draws no VALUE, and its operands fix type 0 and value 0. -/
theorem stopRequestWritesZeroValue : Obligations.StopRequestWritesZeroValue :=
  ⟨selects_of_lookup rfl, fun _ _ =>
    ⟨spells_of_fill rfl s32_zero rfl, spells_of_fill rfl s32_zero rfl, performsEncode_of_encodeOperands rfl⟩⟩

/-- Settles O15: the rows of MVP.ABS and MVP.REL, whose operands fix types 0 and 1 under the one opcode of MVP. -/
theorem moveRequestsWriteFrames : Obligations.MoveRequestsWriteFrames :=
  ⟨rfl, rfl, selects_of_lookup rfl, selects_of_lookup rfl, fun _ _ _ =>
    ⟨spells_of_fill rfl rfl rfl, spells_of_fill rfl rfl rfl,
      spells_of_fill rfl rfl rfl, spells_of_fill rfl rfl rfl,
      performsEncode_of_encodeOperands rfl, performsEncode_of_encodeOperands rfl⟩⟩

/-- Settles O16: the rows of SAP and GAP, whose operands pass every parameter number on, GAP's with value 0. -/
theorem axisSetAndGetWriteFrames : Obligations.AxisSetAndGetWriteFrames :=
  ⟨selects_of_lookup rfl, selects_of_lookup rfl, fun _ _ _ _ =>
    ⟨spells_of_fill rfl rfl rfl, spells_of_fill rfl rfl rfl,
      spells_of_fill rfl s32_zero rfl, spells_of_fill rfl s32_zero rfl,
      performsEncode_of_encodeOperands rfl, performsEncode_of_encodeOperands rfl⟩⟩

/-- Settles O20: an encode request has operands, so it writes its frame and keeps FAULT; a reserved selector decodes to
nothing and its offer is the fault `ILLEGAL_REQUEST`. -/
theorem encodeRequestsNeverFault : Obligations.EncodeRequestsNeverFault := by
  constructor
  · intro i s hi hr
    obtain ⟨⟨a, c, t, m, v⟩, hops⟩ := Option.isSome_iff_exists.mp hi
    obtain ⟨u, hexec, -, -, -, hfault, -, hresp⟩ := writesFrame_of_encodeOperands hops s hr
    exact ⟨u, _, hexec, hfault.trans hr, hresp, rfl⟩
  · intro r s h hr
    refine ⟨fun i hi => ?_, _, step_offer_reserved h hr, by simp⟩
    rw [decode_reserved h] at hi
    cases hi

end Sys2Proof.Machine
end

section
/-! SUPPORT. DECODE on integers and on byte counts, and the lines that take bytes; the statements about DECODE and the all-zero reply. -/

namespace Sys2Proof.Machine

/-! ### Byte lines -/

/-- A byte line spells the instruction whose request holds the row's selector and those bytes, and no other operand. -/
theorem spells_of_byteLine {name : String} {i : Instr} {form : LineForm} {bs : List Byte}
    (hrow : lineForms.find? (fun form => form.name == name) = some form) (hbyte : form.operands.contains .byte = true)
    (henc : encode i = { opsel := BitVec.ofInt 8 form.opsel, bytes := bs })
    (hopsel : byteInt (BitVec.ofInt 8 form.opsel) = form.opsel) : Spells name (bs.map byteInt) i := by
  refine spells_of_fill (n := 0) hrow (by rw [henc, s32_zero]) ?_
  rw [LineForm.fill_byteLine hbyte, henc, rawOf, hopsel]
  rfl

/-! ### Wrong byte counts -/

theorem raisesFault_of_exec {i : Instr} {s : State} {k : FaultRecord} (h : exec i s = .next (s.raise k)) :
    RaisesFault i s k := ⟨_, h, fun _ => rfl, rfl, rfl, rfl, rfl⟩

/-- DECODE of any other count than nine bytes faults before anything is computed (R166). -/
theorem raisesFault_decode {s : State} (hr : s.Ready) {bs : List Byte} (hlen : bs.length ≠ 9) :
    RaisesFault (.decode bs) s .contractViolation := by
  have haccept : exec (.decode bs) s = s.withBytes 9 bs decodeReply :=
    State.accept_ready hr fun s => s.withBytes 9 bs decodeReply
  rcases s.withBytes_eq 9 bs decodeReply with ⟨buf, rfl, -⟩ | ⟨-, hraise⟩
  · simp at hlen
  · exact raisesFault_of_exec (haccept.trans hraise)

/-! ### Nine bytes -/

theorem answers_decode_of_sumMatches {s : State} (hr : s.Ready) {buf : FrameBytes} (h : SumMatches buf) :
    Answers (.decode buf.toList) s (okReply buf[0] buf[1] buf[2] buf[3] (unpack32 (frameValueBytes buf))) := by
  have hans := answers_decode hr buf
  rw [decodeReply_of_sumMatches h] at hans
  exact hans

theorem answers_decode_of_not_sumMatches {s : State} (hr : s.Ready) {buf : FrameBytes} (h : ¬ SumMatches buf) :
    Answers (.decode buf.toList) s { result := .checksumMismatch } := by
  have hans := answers_decode hr buf
  rwa [decodeReply_of_not_sumMatches h] at hans

/-- Where bytes 0 to 7 are zero, so is their sum. -/
theorem sumMatches_zeros_iff (x : Byte) : SumMatches #v[0, 0, 0, 0, 0, 0, 0, 0, x] ↔ x = 0 := by
  rw [sumMatches_iff, checksumOk_iff, eq_comm]
  simp

/-! ### The statements -/

/-- Settles O22: the rows of DECODE in the OPSEL map and in the table of lines, a wrong count, and nine bytes split by
their sum, the value being `unpack32` of bytes 4 to 7. -/
theorem decodeChecksThenExtracts : Obligations.DecodeChecksThenExtracts := by
  refine ⟨selects_of_lookup rfl, fun buf => spells_of_byteLine rfl rfl rfl rfl, fun s hr => ?_⟩
  refine ⟨fun _ => raisesFault_decode hr, fun buf => ⟨answers_decode_of_not_sumMatches hr, fun hsum => ?_⟩⟩
  exact ⟨_, answers_decode_of_sumMatches hr hsum, unpackReadsSignedBigEndian (frameValueBytes buf)⟩

/-- Settles O24: eight zero bytes match their sum exactly when the ninth is zero. -/
theorem allZeroReplyIsLegitimate : Obligations.AllZeroReplyIsLegitimate := by
  intro s hr
  exact ⟨answers_decode_of_sumMatches hr ((sumMatches_zeros_iff 0).mpr rfl),
    fun x hx => answers_decode_of_not_sumMatches hr (mt (sumMatches_zeros_iff x).mp hx)⟩

end Sys2Proof.Machine
end

section
/-! SUPPORT. Where a mismatch comes from and what it leaves; the statement about CHECKSUM_MISMATCH. -/

namespace Sys2Proof.Machine

/-- DECODE of nine bytes answers a mismatch only where byte 8 is not their sum (R161, R162). -/
theorem not_sumMatches_of_decodeReply_result {f : FrameBytes}
    (h : (decodeReply f).result = .checksumMismatch) : ¬ SumMatches f := by
  intro hsum
  rw [decodeReply_of_sumMatches hsum] at h
  cases h

/-- Among the cases of a performed instruction only DECODE of nine bytes delivers a mismatch: the others that deliver
a response deliver `OK`, and the faults deliver none. -/
theorem Performed.mismatch_decoded {i : Instr} {s t : State} {r : Response} (hp : Performed i s t)
    (ht : t.response = some r) (hmis : r.result = .checksumMismatch) :
    ∃ buf : FrameBytes, i = .decode buf.toList ∧ ¬ SumMatches buf ∧ r = { result := .checksumMismatch }
      ∧ t = s.respond r := by
  cases hp with
  | @decoded buf isDecode =>
    cases ht
    have hsum := not_sumMatches_of_decodeReply_result hmis
    exact ⟨buf, isDecode, hsum, decodeReply_of_not_sumMatches hsum, rfl⟩
  | unwritten _ _ | contract _ => cases ht
  | encoded _ _ _ _ | readBack _ _ _ | summed _ | packed _ | unpacked _ =>
    cases ht
    cases hmis

/-- The step after an offer with an operation performs that operation on the state it was offered to (R71). -/
theorem step_offer_selected {q : Request} {j : Instr} (hd : decode q = .ok j) (s : State) :
    step (s.offer q) = exec j s := step_request_selected (State.offer_inputs s q) hd

/-- Settles O28: a response means the instruction was performed, so the mismatch is `Performed.mismatch_decoded`, and
delivering it leaves the block accepting. -/
theorem mismatchOnlyFromDecode : Obligations.MismatchOnlyFromDecode := by
  refine ⟨rfl, fun i s t r hexec hresp hmis => ?_⟩
  rcases exec_next_cases hexec with ⟨hr, hp⟩ | ⟨-, rfl⟩
  · obtain ⟨buf, hdecode, hsum, hrec, rfl⟩ := hp.mismatch_decoded hresp hmis
    exact ⟨⟨buf, hdecode, hsum⟩, hrec, s.sameBlock_respond r, hr, fun _ _ hd => step_offer_selected hd _⟩
  · cases hresp

end Sys2Proof.Machine
end

section
/-! SUPPORT. Decode against encode, and requests against the integers they are formed from; the statements about requests and byte lines. -/

namespace Sys2Proof.Machine

/-! ### Decode and encode -/

/-- The request of an instruction asks for that instruction, every operand having a field of its own (R78). -/
theorem decode_encode (i : Instr) : decode (encode i) = .ok i := by
  cases i <;> rfl

/-- What a request decodes to is a row of the OPSEL map, applied to the request. -/
theorem row_of_decode {r : Request} {i : Instr} (h : decode r = .ok i) :
    ∃ op, (r.opsel, op) ∈ opselMap ∧ op r = i := by
  unfold decode at h
  split at h
  · rename_i op hop
    cases h
    obtain ⟨_, _, hmap, -⟩ := List.lookup_eq_some_iff.mp hop
    exact ⟨op, by simp [hmap], rfl⟩
  · cases h

/-- Row by row, what the OPSEL map draws from a request is what the last column of R70 keeps of it. -/
theorem encode_row (r : Request) :
    ∀ row ∈ opselMap, encode (row.2 r) = clearedRequest { r with opsel := row.1 } := by
  simp only [opselMap, List.forall_mem_cons]
  exact ⟨rfl, rfl, rfl, rfl, rfl, rfl, rfl, rfl, rfl, rfl, rfl, rfl, rfl, rfl, rfl, rfl, rfl, rfl, rfl, by simp⟩

theorem encode_of_decode {r : Request} {i : Instr} (h : decode r = .ok i) : encode i = clearedRequest r := by
  obtain ⟨op, hrow, rfl⟩ := row_of_decode h
  exact encode_row r _ hrow

/-! ### Reserved selectors -/

theorem isReservedOpsel_iff (opsel : Byte) :
    isReservedOpsel opsel = true ↔ opsel.toNat = 0x0E ∨ opsel.toNat = 0x0F ∨ 0x15 ≤ opsel.toNat := by
  simp [isReservedOpsel, ← BitVec.toNat_inj, or_assoc]

/-- Below 0x15 the OPSEL map has a row for every selector but 0x0E and 0x0F (R71). -/
theorem isSome_lookup_opselMap :
    ∀ n < 0x15, n ≠ 0x0E → n ≠ 0x0F → (opselMap.lookup (BitVec.ofNat 8 n)).isSome = true := by
  decide

/-- A selector that is not reserved has an operation (R71). -/
theorem decode_of_not_reserved {r : Request} (h : isReservedOpsel r.opsel = false) : ∃ i, decode r = .ok i := by
  rw [← Bool.not_eq_true, isReservedOpsel_iff] at h
  have hrow := isSome_lookup_opselMap r.opsel.toNat (by omega) (by omega) (by omega)
  rw [BitVec.ofNat_toNat, BitVec.setWidth_eq] at hrow
  obtain ⟨op, hop⟩ := Option.isSome_iff_exists.mp hrow
  exact ⟨op r, selects_of_lookup hop r rfl⟩

/-! ### Unused fields -/

/-- Clearing the fields its operation does not use leaves what a request decodes to (R74). -/
theorem decode_clearedRequest (r : Request) : decode (clearedRequest r) = decode r := by
  cases hres : isReservedOpsel r.opsel with
  | true => exact (decode_reserved (r := clearedRequest r) hres).trans (decode_reserved hres).symm
  | false =>
    obtain ⟨i, hi⟩ := decode_of_not_reserved hres
    rw [← encode_of_decode hi, decode_encode, hi]

/-- The step that takes an offer sees of it only what it decodes to. -/
theorem step_offer_congr {r r' : Request} (h : decode r = decode r') (s : State) :
    step (s.offer r) = step (s.offer r') := by
  cases hd : decode r with
  | ok i => rw [step_offer_selected hd, step_offer_selected (h.symm.trans hd)]
  | error e =>
    rw [step_request_reserved (s.offer_inputs r) hd, step_request_reserved (s.offer_inputs r') (h.symm.trans hd)]
    rfl

/-! ### Requests and integers -/

theorem fitsU8_iff {n : Int} : fitsU8 n = true ↔ 0 ≤ n ∧ n < 256 := by
  simp only [fitsU8, Bool.and_eq_true, decide_eq_true_eq]
  omega

theorem fitsI32_iff {n : Int} : fitsI32 n = true ↔ -2 ^ 31 ≤ n ∧ n < 2 ^ 31 := by
  simp only [fitsI32, Bool.and_eq_true, decide_eq_true_eq]
  omega

theorem byteInt_ofInt {n : Int} (h : fitsU8 n = true) : byteInt (BitVec.ofInt 8 n) = n := by
  obtain ⟨hlow, hhigh⟩ := fitsU8_iff.mp h
  simp only [byteInt, BitVec.toNat_ofInt]
  omega

theorem s32_ofInt {n : Int} (h : fitsI32 n = true) : s32 (BitVec.ofInt 32 n) = n := by
  obtain ⟨hlow, hhigh⟩ := fitsI32_iff.mp h
  rw [s32_eq_toInt, BitVec.toInt_ofInt]
  exact Int.bmod_eq_of_le (by omega) (by omega)

/-- Forming loses nothing: a record of integers forms a request exactly when it is that request's own integers (R70,
R115). -/
theorem form_eq_some_iff {q : RawRequest} {r : Request} : q.form = some r ↔ q = rawOf r := by
  constructor
  · intro h
    unfold RawRequest.form at h
    split at h
    · rename_i hwf
      cases h
      simp only [RawRequest.WellFormed, Bool.and_eq_true, List.all_eq_true] at hwf
      obtain ⟨⟨⟨⟨⟨⟨hopsel, haddr⟩, hcmd⟩, htype⟩, hmotor⟩, hvalue⟩, hbytes⟩ := hwf
      have hmap : (q.bytes.map (BitVec.ofInt 8)).map byteInt = q.bytes := by
        rw [List.map_map]
        exact (List.map_congr_left fun b hb => byteInt_ofInt (hbytes b hb)).trans (List.map_id _)
      simp only [rawOf, byteInt_ofInt hopsel, byteInt_ofInt haddr, byteInt_ofInt hcmd, byteInt_ofInt htype,
        byteInt_ofInt hmotor, s32_ofInt hvalue, hmap]
    · cases h
  · rintro rfl
    exact form_rawOf r

theorem form_eq_none_iff {q : RawRequest} : q.form = none ↔ ¬ q.WellFormed = true := by
  simp [RawRequest.form]

/-- A request is told by its integers. -/
theorem rawOf_injective : Function.Injective rawOf := by
  intro r r' h
  have hform := form_rawOf r
  rw [h, form_rawOf] at hform
  exact (Option.some.inj hform).symm

/-- The integers of a request whose operand fields other than BYTES are 0. -/
theorem rawOf_byteRequest (opsel : Byte) (bs : List Byte) :
    rawOf { opsel := opsel, bytes := bs } = { opsel := byteInt opsel, bytes := bs.map byteInt } := by
  rw [rawOf, s32_zero]
  rfl

/-- A byte line is a request exactly when its operands are bytes, and it holds them in order (log entry 24). -/
theorem assemble_byteLine {name : String} {form : LineForm}
    (hrow : lineForms.find? (fun form => form.name == name) = some form) (hbyte : form.operands.contains .byte = true)
    (opsel : Byte) (hopsel : form.opsel = byteInt opsel) (xs : List Int) (r : Request) :
    assemble name xs = some r ↔ ∃ bs : List Byte, xs = bs.map byteInt ∧ r = { opsel := opsel, bytes := bs } := by
  have hform : assemble name xs = some r ↔ ({ opsel := byteInt opsel, bytes := xs } : RawRequest) = rawOf r := by
    simp [assemble, hrow, LineForm.fill_byteLine hbyte, hopsel, form_eq_some_iff]
  rw [hform]
  constructor
  · intro h
    have hxs : xs = r.bytes.map byteInt := congrArg RawRequest.bytes h
    refine ⟨r.bytes, hxs, rawOf_injective ?_⟩
    rw [← h, hxs, rawOf_byteRequest]
  · rintro ⟨bs, rfl, rfl⟩
    exact (rawOf_byteRequest opsel bs).symm

/-! ### The statements -/

/-- Settles O3: `decode_encode` for instructions, and `encode_row` for the requests that have an operation. -/
theorem decodeEncodeAgree : Obligations.DecodeEncodeAgree :=
  ⟨decode_encode, fun _ _ => encode_of_decode⟩

/-- Settles O2: a reserved selector is rejected, and every other one has a row of the OPSEL map. -/
theorem reservedSelectorHasNoOperation : Obligations.ReservedSelectorHasNoOperation := by
  intro r
  rw [← isReservedOpsel_iff]
  exact ⟨decode_reserved, fun h => decode_of_not_reserved (Bool.not_eq_true _ ▸ h)⟩

/-- Settles O4: both requests decode as their common cleared request does, and a step sees no more of an offer. -/
theorem unusedFieldsHaveNoEffect : Obligations.UnusedFieldsHaveNoEffect := by
  intro r r' s h
  have hdecode : decode r = decode r' := by rw [← decode_clearedRequest r, h, decode_clearedRequest]
  exact ⟨hdecode, step_offer_congr hdecode s⟩

/-- Settles O5: the five samples run through the OPSEL map. -/
theorem sampleRequestsDecode : Obligations.SampleRequestsDecode := ⟨rfl, rfl, rfl, rfl, rfl⟩

/-- Settles O6: being well-formed is the range of every field, and a formed request has the integers it came from. -/
theorem onlyFittingRecordsAreRequests : Obligations.OnlyFittingRecordsAreRequests := by
  refine fun q => ⟨?_, fun r hr => ?_⟩
  · simp only [form_eq_none_iff, RawRequest.WellFormed, Bool.and_eq_true, List.all_eq_true, fitsU8_iff, fitsI32_iff,
      and_assoc]
  · rw [form_eq_some_iff] at hr
    subst hr
    exact ⟨rfl, rfl, rfl, rfl, rfl, rfl, rfl⟩

/-- Settles O49: the three rows of byte lines. -/
theorem byteLinesTakeAnyCount : Obligations.ByteLinesTakeAnyCount := fun xs r =>
  ⟨assemble_byteLine rfl rfl 0x10 rfl xs r, assemble_byteLine rfl rfl 0x11 rfl xs r,
    assemble_byteLine rfl rfl 0x13 rfl xs r⟩

/-- Settles O35: `step_offer_reserved` says the whole step. -/
theorem reservedSelectorRaisesIllegalRequest : Obligations.ReservedSelectorRaisesIllegalRequest :=
  fun _ _ hres hr => ⟨_, step_offer_reserved hres hr, rfl, rfl, fun _ => rfl, rfl, rfl⟩

end Sys2Proof.Machine
end

section
/-! SUPPORT. The checksum, the packer and the frame word as functions, and the requests that answer them; the statements about these and about the loopback and corruption of a frame. -/

namespace Sys2Proof.Machine

/-! ### The checksum -/

theorem toNat_checksum (b : Vector Byte 8) :
    (checksum b).toNat = (b[0].toNat + b[1].toNat + b[2].toNat + b[3].toNat + b[4].toNat + b[5].toNat + b[6].toNat
      + b[7].toNat) % 256 := by
  simp only [checksum_eq_sum, BitVec.toNat_add, Nat.mod_add_mod]

/-- The order in which the eight bytes are accumulated does not matter (R101). -/
theorem checksum_perm {b b' : Vector Byte 8} (h : b'.toList.Perm b.toList) : checksum b' = checksum b :=
  h.foldl_eq 0

/-- Changing one of bytes 0 to 7 changes their sum by the difference. -/
theorem checksum_frameBody_set (f : FrameBytes) {k : Nat} (hk : k < 8) (x : Byte) :
    checksum (frameBody (f.set k x)) = checksum (frameBody f) + (x - f[k]) := by
  rw [checksum_frameBody, checksum_frameBody]
  match k, hk with
  | 0, _ | 1, _ | 2, _ | 3, _ | 4, _ | 5, _ | 6, _ | 7, _ =>
    simp only [Vector.getElem_set, Nat.reduceEqDiff, if_true, if_false]
    ring

theorem sumMatches_iff_checksum (f : FrameBytes) : SumMatches f ↔ checksum (frameBody f) = f[8] := by
  rw [sumMatches_iff, checksumOk, beq_iff_eq]

/-- Of the values one byte of a frame can have, the other eight kept, only one matches the sum. -/
theorem SumMatches.eq_of_set {f : FrameBytes} (h : SumMatches f) {k : Nat} (hk : k < 9) {x : Byte}
    (hset : SumMatches (f.set k x)) : x = f[k] := by
  rw [sumMatches_iff_checksum] at h hset
  by_cases hlast : k = 8
  · subst hlast
    have hbody : frameBody (f.set 8 x) = frameBody f := by simp [frameBody]
    rw [hbody, h, Vector.getElem_set_self] at hset
    exact hset.symm
  · rw [checksum_frameBody_set f (by omega), h, Vector.getElem_set_ne _ _ hlast] at hset
    exact sub_eq_zero.mp (add_eq_left.mp hset)

/-- Raising one of bytes 0 to 7 by what another is lowered by keeps the sum (R107). -/
theorem SumMatches.set_set {f : FrameBytes} (h : SumMatches f) {j k : Nat} (hj : j < 8) (hk : k < 8) (hne : j ≠ k)
    (d : Byte) : SumMatches ((f.set j (f[j] + d)).set k (f[k] - d)) := by
  rw [sumMatches_iff_checksum] at h ⊢
  have hkeep : (f.set j (f[j] + d))[k] = f[k] := Vector.getElem_set_ne _ _ hne
  rw [checksum_frameBody_set _ hk, checksum_frameBody_set _ hj, hkeep, h, Vector.getElem_set_ne _ _ (by omega),
    Vector.getElem_set_ne _ _ (by omega)]
  ring

/-- Flipping bit 7 of a byte adds 128 to it, or takes 128 away, modulo 256. -/
theorem xor_bit7 : ∀ x : Byte, x ^^^ BitVec.twoPow 8 7 = x + 0x80 ∧ x ^^^ BitVec.twoPow 8 7 = x - 0x80 := by
  decide

theorem xor_twoPow_ne {n : Nat} (hn : n < 8) (x : Byte) : x ^^^ BitVec.twoPow 8 n ≠ x := by
  intro h
  have hbit := congrArg (BitVec.getLsbD · n) h
  simp [hn] at hbit

/-! ### The packer and the frame word -/

theorem unpack32_pack32 (v : Value) : unpack32 (pack32 v) = v := by
  have h0 := toNat_pack32 v 0 (by decide)
  have h1 := toNat_pack32 v 1 (by decide)
  have h2 := toNat_pack32 v 2 (by decide)
  have h3 := toNat_pack32 v 3 (by decide)
  apply BitVec.eq_of_toNat_eq
  rw [toNat_unpack32]
  omega

theorem pack32_unpack32 (b : Vector Byte 4) : pack32 (unpack32 b) = b := by
  ext1 k hk
  apply BitVec.eq_of_toNat_eq
  rw [toNat_pack32 _ k hk, toNat_unpack32]
  match k, hk with
  | 0, _ | 1, _ | 2, _ | 3, _ => omega

theorem s32_u32 {v : Int} (hlow : -2147483648 ≤ v) (hhigh : v ≤ 2147483647) : s32 (u32 v) = v := by
  have hpat := toNat_u32 v
  rw [s32_eq_ite_toNat]
  split <;> omega

theorem toNat_append_byte {n : Nat} (x : BitVec n) (b : Byte) : (x ++ b).toNat = x.toNat * 256 + b.toNat := by
  rw [BitVec.toNat_append, ← Nat.shiftLeft_add_eq_or_of_lt b.isLt, Nat.shiftLeft_eq]

/-- The word view on integers: a frame's bytes as the digits of a number in base 256, byte 0 first (R61). -/
theorem toNat_frameWord (f : FrameBytes) :
    (frameWord f).toNat = (((((((f[0].toNat * 256 + f[1].toNat) * 256 + f[2].toNat) * 256 + f[3].toNat) * 256
      + f[4].toNat) * 256 + f[5].toNat) * 256 + f[6].toNat) * 256 + f[7].toNat) * 256 + f[8].toNat := by
  simp only [frameWord, toNat_append_byte]

/-- Bits `64 - 8 * k` and up of the word view are byte `k` (R61). -/
theorem extractLsb'_frameWord (f : FrameBytes) (k : Nat) (hk : k < 9) :
    (frameWord f).extractLsb' (64 - 8 * k) 8 = f[k] := by
  apply BitVec.eq_of_toNat_eq
  rw [BitVec.extractLsb'_toNat, Nat.shiftRight_eq_div_pow, toNat_frameWord]
  match k, hk with
  | 0, _ | 1, _ | 2, _ | 3, _ | 4, _ | 5, _ | 6, _ | 7, _ | 8, _ => omega

/-- Bits 39 to 8 of the word view are the value field (R61). -/
theorem extractLsb'_frameWord_value (f : FrameBytes) :
    (frameWord f).extractLsb' 8 32 = unpack32 (frameValueBytes f) := by
  have hvalue := toNat_unpack32 (frameValueBytes f)
  apply BitVec.eq_of_toNat_eq
  rw [BitVec.extractLsb'_toNat, Nat.shiftRight_eq_div_pow, toNat_frameWord, hvalue]
  change _ = f[4].toNat * 16777216 + f[5].toNat * 65536 + f[6].toNat * 256 + f[7].toNat
  omega

/-! ### The requests of the functions -/

/-- The byte counts that break the caller's contract (R166, R203). -/
theorem contractMet_eq_false_iff (i : Instr) :
    i.contractMet = false ↔ (∃ bs, i = .decode bs ∧ bs.length ≠ 9) ∨ (∃ bs, i = .cksum bs ∧ bs.length ≠ 8)
      ∨ ∃ bs, i = .unpack32 bs ∧ bs.length ≠ 4 := by
  cases i <;> simp [Instr.contractMet, Instr.bytesNeeded, Instr.byteString]

theorem State.withBytes_of_length_ne (s : State) {n : Nat} {bs : List Byte} (h : bs.length ≠ n)
    (p : Vector Byte n → Response) : s.withBytes n bs p = .next (s.raise .contractViolation) := by
  rw [State.withBytes, exactly_eq_none.mpr h]

/-- An accepted request with a wrong byte count faults before anything is computed (R166). -/
theorem raisesFault_contract {i : Instr} {s : State} (hr : s.Ready) (h : i.contractMet = false) :
    RaisesFault i s .contractViolation := by
  rcases (contractMet_eq_false_iff i).mp h with ⟨bs, rfl, hlen⟩ | ⟨bs, rfl, hlen⟩ | ⟨bs, rfl, hlen⟩
  · exact raisesFault_decode hr hlen
  · exact raisesFault_of_exec (by simp [exec, execCksum, State.accept_ready hr, s.withBytes_of_length_ne hlen])
  · exact raisesFault_of_exec (by simp [exec, execUnpack32, State.accept_ready hr, s.withBytes_of_length_ne hlen])

theorem answers_of_exec {i : Instr} {s : State} {r : Response} (h : exec i s = .next (s.respond r)) :
    Answers i s r := ⟨_, h, s.sameBlock_respond r, rfl, rfl⟩

theorem answers_cksum {s : State} (hr : s.Ready) (b : Vector Byte 8) :
    Answers (.cksum b.toList) s { result := .ok, byteOut := some (checksum b) } :=
  answers_of_exec (by simp [exec, execCksum, State.accept_ready hr, State.withBytes])

theorem answers_pack32 {s : State} (hr : s.Ready) (v : Value) :
    Answers (.pack32 v) s { result := .ok, bytesOut := some (pack32 v) } :=
  answers_of_exec (by simp [exec, execPack32, State.accept_ready hr])

theorem answers_unpack32 {s : State} (hr : s.Ready) (b : Vector Byte 4) :
    Answers (.unpack32 b.toList) s { result := .ok, valueOut := some (unpack32 b) } :=
  answers_of_exec (by simp [exec, execUnpack32, State.accept_ready hr, State.withBytes])

theorem answers_rdframe {s : State} {f : FrameBytes} (hr : s.Ready) (hv : s.frameValid = true) (hf : s.HoldsFrame f) :
    Answers .rdframe s { result := .ok, frameOut := some f } := answers_of_exec (execRdframe_holds hr hv hf)

/-! ### The statements -/

/-- Settles O7: `checksum_eq_sum` with each addition wrapped, or with one wrap at the end; the accumulation commutes. -/
theorem checksumIsSumModulo256 : Obligations.ChecksumIsSumModulo256 := fun b =>
  ⟨by simp only [checksum_eq_sum, BitVec.toNat_add, Nat.zero_add, Nat.mod_add_mod], toNat_checksum b,
    fun _ => checksum_perm⟩

/-- Settles O10: the two inverse laws, the first through the sign too, and between two requests. -/
theorem packUnpackInverse : Obligations.PackUnpackInverse := by
  refine ⟨unpack32_pack32, pack32_unpack32, fun v hlow hhigh => ?_, fun s v hr => ?_⟩
  · rw [unpack32_pack32, s32_u32 hlow hhigh]
  · obtain ⟨t, hpack, hsame, -, hresp⟩ := answers_pack32 hr v
    obtain ⟨u, hunpack, -, -, hvalue⟩ := answers_unpack32 (hsame.fault.trans hr) (pack32 v)
    rw [unpack32_pack32] at hvalue
    exact ⟨t, u, pack32 v, hpack, hresp, hunpack, hvalue⟩

/-- Settles O11: each field of the word view, the value field of a built frame holding `pack32` of the value. -/
theorem frameWordFields : Obligations.FrameWordFields :=
  ⟨extractLsb'_frameWord, fun _ _ _ _ v => (extractLsb'_frameWord_value _).trans (unpack32_pack32 v)⟩

/-- Settles O29: the rows of CKSUM, a wrong count, and the sum of eight bytes. -/
theorem cksumAnswersSum : Obligations.CksumAnswersSum := by
  refine ⟨selects_of_lookup rfl, fun _ => spells_of_byteLine rfl rfl rfl rfl, fun s hr => ⟨fun bs hlen => ?_, ?_⟩⟩
  · exact raisesFault_contract hr ((contractMet_eq_false_iff _).mpr (.inr (.inl ⟨bs, rfl, hlen⟩)))
  · exact fun b => ⟨checksum b, toNat_checksum b, answers_cksum hr b⟩

/-- Settles O30: the rows of PACK32 and UNPACK32, and what each answers, read on integers. -/
theorem packerRequestsAnswer : Obligations.PackerRequestsAnswer := by
  refine ⟨selects_of_lookup rfl, selects_of_lookup rfl, fun _ => spells_of_fill rfl rfl rfl,
    fun _ => spells_of_byteLine rfl rfl rfl rfl, fun s hr => ⟨fun v => ?_, fun bs hlen => ?_, fun b => ?_⟩⟩
  · exact ⟨pack32 v, answers_pack32 hr v, by rw [← toNat_unpack32, unpack32_pack32]⟩
  · exact raisesFault_contract hr ((contractMet_eq_false_iff _).mpr (.inr (.inr ⟨bs, rfl, hlen⟩)))
  · exact ⟨unpack32 b, answers_unpack32 hr b, unpackReadsSignedBigEndian b⟩

/-- Settles O21: the rows of RDFRAME, and the two branches of its meaning. -/
theorem rdframeReadsFrameBack : Obligations.RdframeReadsFrameBack :=
  ⟨selects_of_lookup rfl, spells_of_fill rfl s32_zero rfl, fun _ _ => answers_rdframe,
    fun _ hr hv => raisesFault_of_exec (execRdframe_unwritten hr hv), raisesFault_of_exec rfl⟩

/-- Settles O25: BUILD leaves the block accepting, and the frame it built matches its sum and unpacks to its value. -/
theorem loopedBackFrameDecodes : Obligations.LoopedBackFrameDecodes := by
  intro a c t m v s hr
  obtain ⟨s', hexec, -, -, -, hfault, -, hresp⟩ := writesFrame_of_encodeOperands (i := .build a c t m v) rfl s hr
  refine ⟨s', _, hexec, hresp, ?_⟩
  have hsum : SumMatches (buildFrame a c t m v) := (sumMatches_iff _).mpr (checksumOk_buildFrame a c t m v)
  have hvalue : unpack32 (frameValueBytes (buildFrame a c t m v)) = v := unpack32_pack32 v
  have hans := answers_decode_of_sumMatches (hfault.trans hr) hsum
  rw [hvalue] at hans
  exact hans

/-- Settles O26: a flipped bit changes its byte, and only the byte that was there matches the sum. -/
theorem singleBitErrorIsDetected : Obligations.SingleBitErrorIsDetected := by
  intro f s k n hk hn hsum hr
  refine answers_decode_of_not_sumMatches hr fun hflip => ?_
  exact xor_twoPow_ne hn _ (hsum.eq_of_set hk hflip)

/-- Settles O27: flipping bit 7 of two bytes is raising one by 128 and lowering the other by 128. -/
theorem compensatingErrorsPass : Obligations.CompensatingErrorsPass := by
  intro f g s j k hj hk d hne hsum hr hg
  refine ⟨_, rfl, answers_decode_of_sumMatches hr ?_⟩
  rcases hg with rfl | rfl
  · exact hsum.set_set hj hk hne d
  · rw [(xor_bit7 f[j]).1, (xor_bit7 f[k]).2]
    exact hsum.set_set hj hk hne 0x80

/-- Settles O17: the rows of STAP and RSAP, whose operands fix value 0 (D6). -/
theorem axisStoreAndRestoreWriteFrames : Obligations.AxisStoreAndRestoreWriteFrames :=
  ⟨selects_of_lookup rfl, selects_of_lookup rfl, fun _ _ _ =>
    ⟨spells_of_fill rfl s32_zero rfl, spells_of_fill rfl s32_zero rfl,
      spells_of_fill rfl s32_zero rfl, spells_of_fill rfl s32_zero rfl,
      performsEncode_of_encodeOperands rfl, performsEncode_of_encodeOperands rfl⟩⟩

/-- Settles O18: the rows of the four requests; all but SGP draw no VALUE and write 0 (D6), with the bank in MOTOR
(D7). -/
theorem globalParameterRequestsWriteFrames : Obligations.GlobalParameterRequestsWriteFrames :=
  ⟨⟨selects_of_lookup rfl, selects_of_lookup rfl, selects_of_lookup rfl, selects_of_lookup rfl⟩, fun _ _ _ _ =>
    ⟨⟨spells_of_fill rfl rfl rfl, spells_of_fill rfl rfl rfl, spells_of_fill rfl s32_zero rfl,
      spells_of_fill rfl s32_zero rfl, spells_of_fill rfl s32_zero rfl, spells_of_fill rfl s32_zero rfl,
      spells_of_fill rfl s32_zero rfl, spells_of_fill rfl s32_zero rfl⟩,
      performsEncode_of_encodeOperands rfl, performsEncode_of_encodeOperands rfl,
      performsEncode_of_encodeOperands rfl, performsEncode_of_encodeOperands rfl⟩⟩

/-- Settles O19: each convenience request hands `encode` the operands BUILD is given here (R126). -/
theorem convenienceRequestsAreBuilds : Obligations.ConvenienceRequestsAreBuilds :=
  fun _ _ _ _ _ => ⟨rfl, rfl, rfl, rfl, rfl, rfl, rfl, rfl, rfl, rfl, rfl, rfl, rfl⟩

end Sys2Proof.Machine
end

section
/-! SUPPORT. What an instruction changes, leaves and delivers, read off its performed cases; the statements about frames, faults and responses. -/

namespace Sys2Proof.Machine

/-! ### States and encode requests -/

theorem State.sameBlock_turnAway (s : State) : s.SameBlock s.turnAway := ⟨fun _ => rfl, rfl, rfl⟩

theorem isEncode_of_encodeOperands {i : Instr} {a c t m : Byte} {v : Value}
    (h : encodeOperands i = some (a, c, t, m, v)) : isEncode i = true := by
  simp [isEncode, h]

/-- What an encode request answers in a state that accepts it, whichever state that is: the frame of its operands. -/
theorem writesFrame_of_isEncode {i : Instr} (h : isEncode i = true) : ∃ f, WritesFrame i f := by
  obtain ⟨⟨a, c, t, m, v⟩, hops⟩ := Option.isSome_iff_exists.mp h
  exact ⟨_, writesFrame_of_encodeOperands hops⟩

/-! ### What a performed instruction does to the block -/

/-- A performed instruction that is no encode request delivers a response or raises a fault, and nothing more (R21,
R165). -/
theorem Performed.respond_or_raise {i : Instr} {s t : State} (hp : Performed i s t) (h : isEncode i = false) :
    (∃ r, t = s.respond r) ∨ ∃ k, t = s.raise k := by
  cases hp with
  | encoded operands _ _ _ =>
    rw [isEncode_of_encodeOperands operands] at h
    cases h
  | unwritten _ _ | contract _ => exact .inr ⟨_, rfl⟩
  | readBack _ _ _ | decoded _ | summed _ | packed _ | unpacked _ => exact .inl ⟨_, rfl⟩

/-- A performed instruction delivers a response and keeps `FAULT`, or it raises one of two faults: RDFRAME before any
encode, or a wrong byte count (R203, R205). -/
theorem Performed.answered_or_faulted {i : Instr} {s t : State} (hp : Performed i s t) :
    (t.fault = s.fault ∧ ∃ r, t.response = some r)
      ∨ (t = s.raise .frameUnwritten ∧ i = .rdframe ∧ s.frameValid = false)
      ∨ (t = s.raise .contractViolation ∧ i.contractMet = false) := by
  cases hp with
  | unwritten isRead invalid => exact .inr (.inl ⟨rfl, isRead, invalid⟩)
  | contract broken => exact .inr (.inr ⟨rfl, broken⟩)
  | encoded _ _ _ _ | readBack _ _ _ | decoded _ | summed _ | packed _ | unpacked _ => exact .inl ⟨rfl, _, rfl⟩

/-! ### What a performed instruction delivers -/

/-- The fields of a response are those of the operation that delivered it (R72). -/
theorem Performed.response_fields {i : Instr} {s t : State} {r : Response} (hp : Performed i s t)
    (ht : t.response = some r) :
    (r.frameOut.isSome ↔ isEncode i = true ∨ i = .rdframe) ∧ (r.byteOut.isSome ↔ ∃ bs, i = .cksum bs)
      ∧ (r.bytesOut.isSome ↔ ∃ v, i = .pack32 v) ∧ (r.valueOut.isSome ↔ ∃ bs, i = .unpack32 bs)
      ∧ (r.reply.isSome ↔ (∃ bs, i = .decode bs) ∧ r.result = .ok) := by
  cases hp with
  | unwritten _ _ | contract _ => cases ht
  | encoded operands _ _ _ =>
    cases ht
    have hencode := isEncode_of_encodeOperands operands
    cases i with
    | decode _ | cksum _ | pack32 _ | unpack32 _ | rdframe => cases operands
    | _ => simp [hencode]
  | @decoded f isDecode =>
    cases ht
    by_cases hsum : SumMatches f
    · simp [isDecode, isEncode, encodeOperands, decodeReply_of_sumMatches hsum]
    · simp [isDecode, isEncode, encodeOperands, decodeReply_of_not_sumMatches hsum]
  | readBack isOther _ _ | summed isOther | packed isOther | unpacked isOther =>
    cases ht
    simp [isOther, isEncode, encodeOperands]

/-! ### The same instruction in another state -/

theorem WritesFrame.holds {i : Instr} {f : FrameBytes} (hw : WritesFrame i f) {s t : State} (hr : s.Ready)
    (h : exec i s = .next t) : t.HoldsFrame f := by
  obtain ⟨u, hu, hholds, -⟩ := hw s hr
  obtain rfl := Host.Outcome.next.inj (h.symm.trans hu)
  exact hholds

/-- An instruction that answers `r` has the outcome of any state `t` that was answered `r` under the same `FAULT`. -/
theorem Answers.outcome {i : Instr} {s t : State} {r : Response} (h : Answers i s r) (ht : t.response = some r)
    (hfault : t.fault = s.fault) : ∃ u, exec i s = .next u ∧ t.response = u.response ∧ t.fault = u.fault := by
  obtain ⟨u, hu, hsame, -, hresp⟩ := h
  exact ⟨u, hu, ht.trans hresp.symm, hfault.trans hsame.fault.symm⟩

/-- But for RDFRAME, what was performed in one accepting state has the same outcome in every other (R122, R241). -/
theorem Performed.same_outcome {i : Instr} {s t s' : State} (hp : Performed i s t) (hr : s.Ready)
    (hread : i ≠ .rdframe) (hr' : s'.Ready) :
    ∃ t', exec i s' = .next t' ∧ t.response = t'.response ∧ t.fault = t'.fault := by
  have hfault : s.fault = s'.fault := hr.trans hr'.symm
  cases hp with
  | encoded operands _ _ _ =>
    obtain ⟨t', hexec, -, -, -, hfault', -, hresp⟩ := writesFrame_of_encodeOperands operands s' hr'
    exact ⟨t', hexec, hresp.symm, hfault.trans hfault'.symm⟩
  | contract broken =>
    obtain ⟨t', hexec, -, -, hfault', -, hresp⟩ := raisesFault_contract hr' broken
    exact ⟨t', hexec, hresp.symm, hfault'.symm⟩
  | readBack isRead _ _ | unwritten isRead _ => exact absurd isRead hread
  | decoded isDecode => exact isDecode ▸ (answers_decode hr' _).outcome rfl hfault
  | summed isCksum => exact isCksum ▸ (answers_cksum hr' _).outcome rfl hfault
  | packed isPack => exact isPack ▸ (answers_pack32 hr' _).outcome rfl hfault
  | unpacked isUnpack => exact isUnpack ▸ (answers_unpack32 hr' _).outcome rfl hfault

/-- An answer that was delivered already is a repetition: it leaves the block and delivers the same (R47). -/
theorem Answers.repetition {i : Instr} {t : State} {r : Response} (h : Answers i t r) (ht : t.response = some r) :
    ∃ u, exec i t = .next u ∧ t.SameBlock u ∧ u.response = t.response := by
  obtain ⟨u, hu, hsame, -, hresp⟩ := h
  exact ⟨u, hu, hsame, hresp.trans ht.symm⟩

/-- What was performed without a fault is performed again with the same response, and leaves the block as it is (R47). -/
theorem Performed.repeated {i : Instr} {s t : State} (hp : Performed i s t) (ht : t.Ready) :
    ∃ u, exec i t = .next u ∧ t.SameBlock u ∧ u.response = t.response := by
  cases hp with
  | encoded operands holds others wf =>
    obtain ⟨u, hu, hholds, hothers, hvalid, hfault, -, hresp⟩ := writesFrame_of_encodeOperands operands _ ht
    refine ⟨u, hu, ⟨fun a => ?_, hvalid, hfault⟩, hresp⟩
    by_cases ha : a < 9
    · exact (hholds a ha).trans (holds a ha).symm
    · exact hothers a (by omega)
  | unwritten _ _ | contract _ => cases ht
  | readBack isRead valid holds => exact isRead ▸ (answers_rdframe ht valid holds).repetition rfl
  | decoded isDecode => exact isDecode ▸ (answers_decode ht _).repetition rfl
  | summed isCksum => exact isCksum ▸ (answers_cksum ht _).repetition rfl
  | packed isPack => exact isPack ▸ (answers_pack32 ht _).repetition rfl
  | unpacked isUnpack => exact isUnpack ▸ (answers_unpack32 ht _).repetition rfl

/-! ### While FAULT is set -/

/-- Every request offered while `FAULT` is set is turned away, one with a reserved selector too (R204). -/
theorem step_offer_faulted {s : State} (h : ¬ s.Ready) (r : Request) : step (s.offer r) = .next s.turnAway := by
  cases hd : decode r with
  | ok i => exact (step_offer_selected hd s).trans (exec_faulted h i)
  | error e => exact (step_request_reserved (s.offer_inputs r) hd).trans (State.accept_faulted h _)

/-! ### The statements -/

/-- Settles O31: an accepted encode request writes its frame and nothing else, any other is turned away. -/
theorem encodeRequestsFrame : Obligations.EncodeRequestsFrame := by
  intro i s t hencode hexec
  by_cases hr : s.Ready
  · obtain ⟨f, hwrites⟩ := writesFrame_of_isEncode hencode
    obtain ⟨u, hu, -, hothers, -, hfault, hinputs, -⟩ := hwrites s hr
    obtain rfl := Host.Outcome.next.inj (hexec.symm.trans hu)
    exact ⟨hothers, hfault, hinputs, fun h => absurd hr h⟩
  · obtain rfl := Host.Outcome.next.inj (hexec.symm.trans (exec_faulted hr i))
    exact ⟨fun _ _ => rfl, rfl, rfl, fun _ => ⟨s.sameBlock_turnAway, rfl⟩⟩

/-- Settles O32: delivering, raising and turning away all leave storage and `FRAME_VALID`, and only raising, which
delivers nothing, writes `FAULT`. -/
theorem readingRequestsFrame : Obligations.ReadingRequestsFrame := by
  intro i s t hencode hexec
  rcases exec_next_cases hexec with ⟨hr, hp⟩ | ⟨-, rfl⟩
  · rcases hp.respond_or_raise hencode with ⟨r, rfl⟩ | ⟨k, rfl⟩
    · exact ⟨fun _ => rfl, rfl, rfl, fun h => absurd rfl h⟩
    · exact ⟨fun _ => rfl, rfl, rfl, fun _ => ⟨hr, rfl⟩⟩
  · exact ⟨fun _ => rfl, rfl, rfl, fun h => absurd rfl h⟩

/-- Settles O33: each of the two faults is raised where the table has it, and by `Performed.answered_or_faulted` there
is no other. -/
theorem faultsAreExactlyTheTable : Obligations.FaultsAreExactlyTheTable := by
  intro i s t hr hexec
  have hcontract : i.contractMet = false → t.fault = .contractViolation := fun h => by
    obtain ⟨u, hu, -, -, hfault, -, -⟩ := raisesFault_contract hr h
    obtain rfl := Host.Outcome.next.inj (hexec.symm.trans hu)
    exact hfault
  have hunwritten : i = .rdframe ∧ s.frameValid = false → t.fault = .frameUnwritten := by
    rintro ⟨rfl, hv⟩
    obtain rfl := Host.Outcome.next.inj (hexec.symm.trans (execRdframe_unwritten hr hv))
    rfl
  rw [← contractMet_eq_false_iff]
  obtain ⟨-, hp⟩ := (exec_next_cases hexec).resolve_right fun h => h.1 hr
  rcases hp.answered_or_faulted with ⟨hfault, -⟩ | ⟨rfl, hread⟩ | ⟨rfl, hbroken⟩
  · rw [hfault, hr] at hcontract hunwritten ⊢
    exact ⟨⟨nofun, hcontract⟩, ⟨nofun, hunwritten⟩, by simp, fun h => absurd rfl h⟩
  · exact ⟨⟨nofun, hcontract⟩, ⟨fun _ => hread, hunwritten⟩, by simp, fun _ => ⟨rfl, rfl, fun _ => rfl⟩⟩
  · exact ⟨⟨fun _ => hbroken, hcontract⟩, ⟨nofun, hunwritten⟩, by simp, fun _ => ⟨rfl, rfl, fun _ => rfl⟩⟩

/-- Settles O34: `exec_faulted` for instructions and `step_offer_faulted` for offers. -/
theorem nothingAcceptedAfterFault : Obligations.NothingAcceptedAfterFault := fun s h =>
  ⟨fun i => ⟨_, exec_faulted h i, s.sameBlock_turnAway, rfl, rfl⟩,
    fun r => ⟨_, step_offer_faulted h r, s.sameBlock_turnAway, rfl, rfl⟩⟩

/-- Settles O37: an accepted instruction answers or faults, and `Performed.response_fields` says with what; one turned
away leaves `FAULT` set and delivers nothing. -/
theorem responseFieldsAreThoseOfTheOperation : Obligations.ResponseFieldsAreThoseOfTheOperation := by
  intro i s t hexec
  rcases exec_next_cases hexec with ⟨hr, hp⟩ | ⟨hr, rfl⟩
  · refine ⟨?_, fun r hresp => hp.response_fields hresp⟩
    rcases hp.answered_or_faulted with ⟨hfault, r, hresp⟩ | ⟨rfl, -⟩ | ⟨rfl, -⟩
    · simp [hresp, hfault.trans hr]
    · simp
    · simp
  · exact ⟨iff_of_true rfl hr, fun _ hresp => by cases hresp⟩

/-- Settles O38: `Performed.same_outcome` for the response and `FAULT`, and an encode request's frame is that of its
operands in both states. -/
theorem outcomeIndependentOfFormerFrame : Obligations.OutcomeIndependentOfFormerFrame := by
  intro i s s' hread hr hr'
  obtain ⟨t, hexec, hp⟩ := (exec_ready_cases hr i).resolve_right fun h => hread h.1
  obtain ⟨t', hexec', hresp, hfault⟩ := hp.same_outcome hr hread hr'
  refine ⟨t, t', hexec, hexec', hresp, hfault, fun hencode a ha => ?_⟩
  obtain ⟨f, hwrites⟩ := writesFrame_of_isEncode hencode
  rw [hwrites.holds hr hexec a ha, hwrites.holds hr' hexec' a ha]
  exact ⟨rfl, rfl⟩

/-- Settles O39: the first issue left `FAULT` at NONE, so it delivered, and each case that delivers is performed again
as it was. -/
theorem repeatedRequestChangesNothing : Obligations.RepeatedRequestChangesNothing := by
  intro i s t hexec ht
  rcases exec_next_cases hexec with ⟨-, hp⟩ | ⟨hr, rfl⟩
  · exact hp.repeated ht
  · exact absurd ht hr

end Sys2Proof.Machine
end

section
/-! SUPPORT. Steps and runs: the invariant kept by every step, and what runs of any length keep; the statements about steps and runs. -/

namespace Sys2Proof.Machine

/-! ### The invariant under the operations of the state -/

theorem State.Inv.withInputs {s : State} (h : s.Inv) (rest : List Input) : ({ s with inputs := rest } : State).Inv :=
  ⟨h.memWf, h.noMore, h.unwritten, h.written, h.frameOut, h.mismatch, h.silent, h.unwrittenFault⟩

theorem State.reset_inv : State.reset.Inv where
  memWf := State.reset_frame_wf
  noMore _ _ := rfl
  unwritten _ := rfl
  written := nofun
  frameOut := nofun
  mismatch := nofun
  silent _ := rfl
  unwrittenFault := nofun

theorem State.Inv.raise {s : State} (h : s.Inv) {k : FaultRecord} (hk : k = .frameUnwritten → s.frameValid = false) :
    (s.raise k).Inv where
  memWf := h.memWf
  noMore := h.noMore
  unwritten := h.unwritten
  written := h.written
  frameOut := nofun
  mismatch := nofun
  silent _ := rfl
  unwrittenFault := hk

/-- Being turned away leaves the state as raising the `FAULT` that is set already does. -/
theorem State.Inv.turnAway {s : State} (h : s.Inv) : s.turnAway.Inv := h.raise h.unwrittenFault

/-- Being idle and being turned away are one update: the response port is cleared. -/
theorem State.Inv.idle {s : State} (h : s.Inv) : s.idle.Inv := h.turnAway

/-- A delivered response keeps the invariant where its frame, if it has one, is the one `FRAME` holds, and a mismatch
carries nothing. -/
theorem State.Inv.respond {s : State} (h : s.Inv) (hr : s.Ready) {r : Response}
    (hframe : ∀ f, r.frameOut = some f → s.HoldsFrame f)
    (hmis : r.result = .checksumMismatch → r = { result := .checksumMismatch }) : (s.respond r).Inv where
  memWf := h.memWf
  noMore := h.noMore
  unwritten := h.unwritten
  written := h.written
  frameOut := by
    rintro _ f ⟨⟩ hf
    exact hframe f hf
  mismatch := by
    rintro _ ⟨⟩ hm
    exact hmis hm
  silent hf := absurd hr hf
  unwrittenFault := h.unwrittenFault

/-- A frame with its own checksum, written whole, meets the invariant whatever `FRAME` held. -/
theorem State.Inv.writeFrame {s : State} (h : s.Inv) (hr : s.Ready) {mem : Memory} {f : FrameBytes}
    (holds : ∀ k (hk : k < 9), mem.read k = some f[k]) (others : ∀ k, 9 ≤ k → mem.read k = s.frame.read k)
    (wf : s.frame.wf → mem.wf) (hok : checksumOk f = true) :
    (State.respond { s with frame := mem, frameValid := true } { result := .ok, frameOut := some f }).Inv where
  memWf := wf h.memWf
  noMore a ha := (others a ha).trans (h.noMore a ha)
  unwritten := nofun
  written _ := ⟨f, holds, hok⟩
  frameOut := by
    rintro _ _ ⟨⟩ ⟨⟩
    exact holds
  mismatch := by
    rintro _ ⟨⟩ ⟨⟩
  silent hf := absurd hr hf
  unwrittenFault hf := by
    rw [show s.fault = .noFault from hr] at hf
    cases hf

/-- Every performed instruction keeps the invariant. -/
theorem Performed.keeps_inv {i : Instr} {s t : State} (hp : Performed i s t) (hr : s.Ready) (h : s.Inv) : t.Inv := by
  cases hp with
  | encoded _ holds others wf => exact h.writeFrame hr holds others wf (checksumOk_buildFrame ..)
  | readBack _ _ holds =>
    refine h.respond hr ?_ nofun
    rintro _ ⟨⟩
    exact holds
  | unwritten _ invalid => exact h.raise fun _ => invalid
  | contract _ => exact h.raise nofun
  | @decoded buf _ =>
    refine h.respond hr (by simp) fun hm => ?_
    exact decodeReply_of_not_sumMatches (not_sumMatches_of_decodeReply_result hm)
  | summed _ | packed _ | unpacked _ => exact h.respond hr nofun nofun

theorem exec_keeps_inv {i : Instr} {s t : State} (h : s.Inv) (hexec : exec i s = .next t) : t.Inv := by
  rcases exec_next_cases hexec with ⟨hr, hp⟩ | ⟨-, rfl⟩
  · exact hp.keeps_inv hr h
  · exact h.turnAway

/-- A reserved selector is the fault of R73 or is turned away. -/
theorem illegalRequest_next (s : State) :
    (s.Ready ∧ illegalRequest s = .next (s.raise .illegalRequest))
      ∨ (¬ s.Ready ∧ illegalRequest s = .next s.turnAway) := by
  by_cases hr : s.Ready
  · exact .inl ⟨hr, State.accept_ready hr _⟩
  · exact .inr ⟨hr, State.accept_faulted hr _⟩

theorem illegalRequest_keeps_inv {s t : State} (h : s.Inv) (hnext : illegalRequest s = .next t) : t.Inv := by
  rcases illegalRequest_next s with ⟨-, hraise⟩ | ⟨-, haway⟩
  · obtain rfl := Host.Outcome.next.inj (hraise.symm.trans hnext)
    exact h.raise nofun
  · obtain rfl := Host.Outcome.next.inj (haway.symm.trans hnext)
    exact h.turnAway

/-! ### Every step completes -/

/-- An instruction completes, or it is RDFRAME at a byte of `FRAME` that nothing has written. -/
theorem exec_next_or_stops (i : Instr) (s : State) :
    (∃ t, exec i s = .next t)
      ∨ i = .rdframe ∧ s.Ready ∧ s.frameValid = true ∧ ∃ a, a < 9 ∧ s.frame.read a = none
        ∧ exec i s = .fault (.frameByteAbsent a) := by
  by_cases hr : s.Ready
  · rcases exec_ready_cases hr i with ⟨t, ht, -⟩ | ⟨hread, hstop⟩
    · exact .inl ⟨t, ht⟩
    · exact .inr ⟨hread, hr, hstop⟩
  · exact .inl ⟨_, exec_faulted hr i⟩

/-- The stop of `exec` is the one stop of a step: resets, idle steps and reserved selectors complete. -/
theorem step_next_or_stops (s : State) :
    (∃ t, step s = .next t)
      ∨ ∃ r rest a, s.inputs = .request r :: rest ∧ decode r = .ok .rdframe ∧ s.Ready ∧ s.frameValid = true ∧ a < 9
        ∧ s.frame.read a = none ∧ step s = .fault (.frameByteAbsent a) := by
  cases hi : s.inputs with
  | nil => exact .inl ⟨_, step_nothing_offered hi⟩
  | cons x rest =>
    cases x with
    | reset => exact .inl ⟨_, step_reset_offered hi⟩
    | request r =>
      cases hd : decode r with
      | error e =>
        rw [step_request_reserved hi hd]
        rcases illegalRequest_next { s with inputs := rest } with ⟨-, hnext⟩ | ⟨-, hnext⟩ <;> exact .inl ⟨_, hnext⟩
      | ok i =>
        rw [step_request_selected hi hd]
        rcases exec_next_or_stops i { s with inputs := rest } with hnext | ⟨rfl, hr, hv, a, ha, hnone, hstop⟩
        · exact .inl hnext
        · exact .inr ⟨r, rest, a, rfl, hd, hr, hv, ha, hnone, hstop⟩

/-- Where `FRAME` holds a frame whenever `FRAME_VALID` is 1, every step completes. -/
theorem step_completes {s : State} (h : s.frameValid = true → ∃ f, s.HoldsFrame f) : ∃ t, step s = .next t := by
  rcases step_next_or_stops s with hnext | ⟨_, _, a, -, -, -, hv, ha, hnone, -⟩
  · exact hnext
  · obtain ⟨f, hf⟩ := h hv
    rw [hf a ha] at hnone
    cases hnone

/-! ### Runs -/

theorem forall_mem_take_succ {Q : Input → Prop} {inputs : List Input} {n : Nat} :
    (∀ x ∈ inputs.take (n + 1), Q x) ↔ (∀ x ∈ inputs.head?, Q x) ∧ ∀ x ∈ inputs.tail.take n, Q x := by
  cases inputs <;> simp

/-- Where every step from a state with `P`, on an offer that `Q` allows, completes in a state with `P`, so does a run of
any length on such offers. -/
theorem run_keeps {P : State → Prop} {Q : Input → Prop}
    (hstep : ∀ s, P s → (∀ x ∈ s.inputs.head?, Q x) → ∃ t, step s = .next t ∧ P t ∧ t.inputs = s.inputs.tail)
    (n : Nat) (s : State) (hs : P s) (hoffers : ∀ x ∈ s.inputs.take n, Q x) :
    ∃ t, Host.Core.run Sys2Proof.core n s = .next t ∧ P t ∧ t.inputs = s.inputs.drop n := by
  induction n generalizing s with
  | zero => exact ⟨s, rfl, hs, rfl⟩
  | succ n ih =>
    obtain ⟨hfirst, hlater⟩ := forall_mem_take_succ.mp hoffers
    obtain ⟨u, hu, hPu, hinputs⟩ := hstep s hs hfirst
    obtain ⟨t, hrun, hPt, hrest⟩ := ih u hPu (hinputs ▸ hlater)
    exact ⟨t, (run_next hu).trans hrun, hPt, by rw [hrest, hinputs, List.drop_tail]⟩

theorem State.SameBlock.trans {s t u : State} (h : s.SameBlock t) (h' : t.SameBlock u) : s.SameBlock u :=
  ⟨fun a => (h'.frame a).trans (h.frame a), h'.frameValid.trans h.frameValid, h'.fault.trans h.fault⟩

/-- `t` holds the block of `s`, and nothing was delivered. -/
def State.Silenced (s t : State) : Prop := s.SameBlock t ∧ t.response = none

/-- While `FAULT` is set every offer but a reset is turned away, and with none the block is idle (R204). -/
theorem step_silenced {s : State} (h : ¬ s.Ready) (hoffer : ∀ x ∈ s.inputs.head?, x ≠ .reset) :
    ∃ t, step s = .next t ∧ s.Silenced t ∧ t.inputs = s.inputs.tail := by
  cases hi : s.inputs with
  | nil => exact ⟨_, step_nothing_offered hi, ⟨s.sameBlock_turnAway, rfl⟩, hi⟩
  | cons x rest =>
    cases x with
    | reset => exact absurd rfl (hoffer .reset (by simp [hi]))
    | request r =>
      have haway := step_offer_faulted (s := { s with inputs := rest }) h r
      rw [State.offer, ← hi] at haway
      exact ⟨_, haway, ⟨⟨fun _ => rfl, rfl, rfl⟩, rfl⟩, rfl⟩

theorem step_keeps_silenced {s : State} (h : ¬ s.Ready) (t : State) (ht : s.Silenced t)
    (hoffer : ∀ x ∈ t.inputs.head?, x ≠ .reset) :
    ∃ u, step t = .next u ∧ s.Silenced u ∧ u.inputs = t.inputs.tail := by
  obtain ⟨hsame, -⟩ := ht
  obtain ⟨u, hu, ⟨hsame', hresp⟩, hinputs⟩ := step_silenced (fun hr => h (hsame.fault.symm.trans hr)) hoffer
  exact ⟨u, hu, ⟨hsame.trans hsame', hresp⟩, hinputs⟩

/-- `FRAME` holds `f`, and `FRAME_VALID` is 1. -/
def State.Keeps (f : FrameBytes) (s : State) : Prop := s.HoldsFrame f ∧ s.frameValid = true

/-- A step on anything but an encode request or a reset completes and leaves the frame (R22). -/
theorem step_keeps {f : FrameBytes} (s : State) (h : s.Keeps f) (hoffer : ∀ x ∈ s.inputs.head?, x.NoEncode) :
    ∃ t, step s = .next t ∧ t.Keeps f ∧ t.inputs = s.inputs.tail := by
  obtain ⟨t, hstep⟩ := step_completes fun _ => ⟨f, h.1⟩
  refine ⟨t, hstep, ?_⟩
  rcases step_next_cases hstep with ⟨hi, rfl⟩ | ⟨rest, hi, -⟩ | ⟨r, i, rest, hi, hd, hexec⟩ |
    ⟨r, e, rest, hi, -, hillegal⟩
  · exact ⟨h, by simp [hi]⟩
  · exact (hoffer .reset (by simp [hi])).elim
  · have hno := hoffer (.request r) (by simp [hi]) i hd
    obtain ⟨hframe, hvalid, hinputs, -⟩ := readingRequestsFrame i _ t hno hexec
    exact ⟨⟨fun k hk => (hframe k).trans (h.1 k hk), hvalid.trans h.2⟩, by simp [hinputs, hi]⟩
  · rcases illegalRequest_next { s with inputs := rest } with ⟨-, hnext⟩ | ⟨-, hnext⟩ <;>
      obtain rfl := Host.Outcome.next.inj (hnext.symm.trans hillegal) <;>
      exact ⟨h, by simp [hi]⟩

/-- An offered encode request is taken, leaves its frame, and leaves the block accepting. -/
theorem step_encode {s : State} {i : Instr} {f : FrameBytes} {rest : List Input} (hwrites : WritesFrame i f)
    (hr : s.Ready) (hoffers : s.inputs = .request (encode i) :: rest) :
    ∃ t, step s = .next t ∧ t.Ready ∧ t.Keeps f ∧ t.inputs = rest := by
  obtain ⟨t, hexec, hholds, -, hvalid, hfault, hinputs, -⟩ := hwrites { s with inputs := rest } hr
  have hstep := step_request_selected hoffers (decode_encode i)
  exact ⟨t, hstep.trans hexec, hfault.trans hr, ⟨hholds, hvalid⟩, hinputs⟩

/-! ### The statements -/

/-- Settles O1: the fields of the reset state. -/
theorem resetHoldsNoFrame : Obligations.ResetHoldsNoFrame := ⟨Memory.read_nil, rfl, rfl, rfl, rfl⟩

/-- Settles O36: the two code tables. -/
theorem resultAndFaultCodes : Obligations.ResultAndFaultCodes := ⟨rfl, rfl, rfl, rfl, rfl, rfl⟩

/-- Settles O40: `step_request_selected`. -/
theorem stepRunsDecodedRequest : Obligations.StepRunsDecodedRequest := fun _ _ _ _ => step_request_selected

/-- Settles O41: the step on an offered reset and the step on no offer. -/
theorem resetAndIdleSteps : Obligations.ResetAndIdleSteps := fun s =>
  ⟨fun _ h => ⟨_, step_reset_offered h, Memory.read_nil, rfl, rfl, rfl, rfl⟩,
    fun h => ⟨_, step_nothing_offered h, s.sameBlock_turnAway, h, rfl⟩⟩

/-- Settles O42: nothing is written, nothing delivered and no fault set, so every clause is `rfl` or empty. -/
theorem resetMeetsInvariant : Obligations.ResetMeetsInvariant := State.reset_inv

/-- Settles O43: each of the four kinds of step keeps the invariant, and taking the offer does not touch it. -/
theorem stepKeepsBlockInvariant : Obligations.StepKeepsBlockInvariant := by
  intro s t hinv hstep
  rcases step_next_cases hstep with ⟨-, rfl⟩ | ⟨rest, -, rfl⟩ | ⟨r, i, rest, -, -, hexec⟩ |
    ⟨r, e, rest, -, -, hillegal⟩
  · exact hinv.idle
  · exact State.reset_inv.withInputs rest
  · exact exec_keeps_inv (hinv.withInputs rest) hexec
  · exact illegalRequest_keeps_inv (hinv.withInputs rest) hillegal

/-- Settles O45: `step_next_or_stops`, and the invariant excludes the stop. -/
theorem stepsComplete : Obligations.StepsComplete := fun s =>
  ⟨step_next_or_stops s, fun hinv => step_completes fun hv => (hinv.written hv).imp fun _ hf => hf.1⟩

/-- Settles O46: the first step silences the block, and every further one finds it silenced. -/
theorem faultStaysUntilReset : Obligations.FaultStaysUntilReset := by
  intro n s hfault hoffers
  cases n with
  | zero => exact ⟨s, rfl, ⟨fun _ => rfl, rfl, rfl⟩, rfl, nofun⟩
  | succ n =>
    obtain ⟨hfirst, hlater⟩ := forall_mem_take_succ.mp hoffers
    obtain ⟨u, hu, hsilenced, hinputs⟩ := step_silenced hfault hfirst
    obtain ⟨t, hrun, ⟨hsame, hresp⟩, hrest⟩ := run_keeps (step_keeps_silenced hfault) n u hsilenced (hinputs ▸ hlater)
    exact ⟨t, (run_next hu).trans hrun, hsame, by rw [hrest, hinputs, List.drop_tail], fun _ => hresp⟩

/-- Settles O47: the encode request leaves its frame, and every step of the run keeps it. -/
theorem frameKeptUntilNextEncode : Obligations.FrameKeptUntilNextEncode := by
  intro i a c p m v s t hops hr hexec
  obtain ⟨u, hu, hholds, -, hvalid, -⟩ := writesFrame_of_encodeOperands hops s hr
  obtain rfl := Host.Outcome.next.inj (hu.symm.trans hexec)
  refine ⟨_, commandLayout_buildFrame a c p m v, hholds, fun n hoffers => ?_⟩
  obtain ⟨w, hrun, ⟨hframe, hv⟩, -⟩ := run_keeps step_keeps n u ⟨hholds, hvalid⟩ hoffers
  exact ⟨w, hrun, hframe, hv, fun hready => answers_rdframe hready hv hframe⟩

/-- Settles O48: each encode request writes its own frame and leaves the block accepting, so RDFRAME finds the second. -/
theorem laterEncodeReplacesFrame : Obligations.LaterEncodeReplacesFrame := by
  intro i j s rest a c p m v hi hops hr hoffers
  obtain ⟨f, hwrites⟩ := writesFrame_of_isEncode hi
  obtain ⟨t, hfirst, ht, -, hinputs⟩ := step_encode hwrites hr hoffers
  obtain ⟨u, hsecond, hu, ⟨hholds, hvalid⟩, hinputs'⟩ := step_encode (writesFrame_of_encodeOperands hops) ht hinputs
  obtain ⟨w, hread, -, hrest, hresp⟩ := answers_rdframe (s := { u with inputs := rest }) hu hvalid hholds
  refine ⟨w, _, ?_, commandLayout_buildFrame a c p m v, hresp, hrest⟩
  rw [run_next hfirst, run_next hsecond, run_next ((step_request_selected hinputs' rfl).trans hread)]
  rfl

end Sys2Proof.Machine
end
